-- ==== Sys2Proof/Word.lean ====
section
/-! DEFINITION. The plain value types of the ED2408 (R1, R38, R61, R83, R159; 11_formats.md). -/
namespace Sys2Proof

/-- A 32-bit word of the port, the bus or the aperture (11_formats.md). -/
abbrev Word := BitVec 32

/-- One byte of the home memory (R1). -/
abbrev Byte := BitVec 8

/-- A station number, 0 to 15 (R38). -/
abbrev Station := Fin 16

/-- A set of stations as the word software sees: bit p stands for station p (11_formats.md). -/
abbrev StationSet := BitVec 16

/-- A line address, 0 to 2^26 - 1 (R1). -/
abbrev LineAddr := BitVec 26

/-- The sixteen words of a line, word w at word index w (R1). -/
abbrev Line := Vector Word 16

/-- A local tag, 0 to 7 (R159). -/
abbrev Tag := Fin 8

/-- A record tag: a position of the pending request table, 0 to 3 (R82). -/
abbrev RecordTag := Fin 4

/-- One reply position as it is read off the bus: 0 is silent (11_formats.md). -/
abbrev ReplyCode := BitVec 3

/-- The sixteen reply positions of one tenure (R30). -/
abbrev Tally := Vector ReplyCode 16

end Sys2Proof
end

