-- ==== Sys2Proof/Syntax.lean ====
section
/-! DEFINITION. The commands of the ED2408: one constructor of Instr for each row of
spec/opcode_table.json, with the operands the spec gives it. -/
namespace Sys2Proof

/-- How a window's lines are reached (R2); `priv` is PRIVATE. -/
inductive Mode where
  | uncached | coherentWT | coherentWB | priv
  deriving DecidableEq, Repr

/-- One entry of the window table, every field (R2). The stripe count is 2^stripeCode (11_formats.md). -/
structure WindowEntry where
  valid : Bool
  base : BitVec 16
  sizeCode : BitVec 4
  mode : Mode
  stripeCode : BitVec 2
  stripes : Vector Station 8
  homeBase : BitVec 12
  writers : StationSet
  deriving DecidableEq, Repr

/-- The sixteen window entries (R2). -/
abbrev WindowTable := Vector WindowEntry 16

/-- The sense of a COND_STORE (R144). -/
inductive Sense where
  | zero | nonzero
  deriving DecidableEq, Repr

/-- The variant of an ACCUMULATE (R144). -/
inductive Variant where
  | addSigned | addUnsigned | subSigned | subUnsigned
  deriving DecidableEq, Repr

/-- A pool operation with its pool addresses (R144). -/
inductive PoolOp where
  | condStore (a t v : Word) (sense : Sense)
  | accumulate (p x y : Word) (variant : Variant)
  | push (d : Word) (mark : Bool) (count : BitVec 5) (values : List Word)
  | pop (d : Word) (count : BitVec 5)
  deriving DecidableEq, Repr

/-- A request of the local processor (R161): the ten pool requests, the aperture accesses, the
commands, and a request of a kind the port does not know (R160). The byte enables of a WRITE are
four bits for the j-th word of the request (11_formats.md). -/
inductive Request where
  | read (a : Word) (count : BitVec 5)
  | write (a : Word) (count : BitVec 5) (enables : BitVec 64) (words : List Word)
  | operation (op : PoolOp)
  | flushLine (a : Word)
  | discardLine (a : Word)
  | repairLine (a : Word)
  | flushAll
  | apertureRead (offset : Word)
  | apertureWrite (offset w : Word)
  | join
  | leave
  | ackFault
  | ackMembership
  | unknown (code : BitVec 5)
  deriving DecidableEq, Repr

/-- The tenure kinds of the pool bus (R25, R26, R27), and a kind code that is not assigned (R180). -/
inductive Kind where
  | fetch | fetchOwn | claim | readDirect | writeThrough | operate | ret | release
  | recallRead | recallAll | data | join | ready | leave | unassigned
  deriving DecidableEq, Repr

/-- What an OPERATE tenure carries: word indices within its line in place of addresses (R148,
11_formats.md). -/
inductive Operation where
  | condStore (a t : BitVec 4) (v : Word) (sense : Sense)
  | accumulate (p : BitVec 4) (x y : Word) (variant : Variant)
  | push (d : BitVec 4) (mark : Bool) (count : BitVec 4) (values : List Word)
  | pop (d : BitVec 4) (count : BitVec 4)
  deriving DecidableEq, Repr

/-- The fields of a DATA beside line and record tag (R26). The status is the raw code. -/
structure Data where
  target : Station
  source : Station
  status : BitVec 5
  dirty : Bool
  alsoHome : Bool
  first : BitVec 4
  count : BitVec 5
  words : List Word
  deriving DecidableEq, Repr

/-- The body of a publication, by kind (R25, R26, R27, 11_formats.md). The words of a WRITE_THROUGH
stand at their word positions in the line; those outside the mask are not carried and not read. -/
inductive Body where
  | fetch
  | fetchOwn
  | claim
  | readDirect (first : BitVec 4) (count : BitVec 5)
  | writeThrough (mask : BitVec 16) (keepsCopy : Bool) (enables : BitVec 64) (words : Line)
  | operate (op : Operation)
  | ret (words : Line)
  | release
  | recallRead
  | recallAll
  | data (d : Data)
  | join (sizeCode : BitVec 3) (image : WindowTable)
  | ready (target : Station)
  | leave
  | unassigned (code : BitVec 4)
  deriving DecidableEq, Repr

/-- The kind a body belongs to. -/
def Body.kind : Body → Kind
  | .fetch => .fetch
  | .fetchOwn => .fetchOwn
  | .claim => .claim
  | .readDirect _ _ => .readDirect
  | .writeThrough _ _ _ _ => .writeThrough
  | .operate _ => .operate
  | .ret _ => .ret
  | .release => .release
  | .recallRead => .recallRead
  | .recallAll => .recallAll
  | .data _ => .data
  | .join _ _ => .join
  | .ready _ => .ready
  | .leave => .leave
  | .unassigned _ => .unassigned

/-- A publication: header and body (R25, 11_formats.md). -/
structure Publication where
  publisher : Station
  tag : RecordTag
  line : LineAddr
  body : Body
  deriving DecidableEq, Repr

/-- Another contender of a round: its number, whether it contends in the supply class, and the
reference number it holds (R21, R22). -/
structure Contender where
  number : Station
  supply : Bool
  reference : Option Station
  deriving DecidableEq, Repr

/-- The commands of the block: one constructor for each row of spec/opcode_table.json. -/
inductive Instr where
  | read (a : Word) (count : BitVec 5)
  | write (a : Word) (count : BitVec 5) (enables : BitVec 64) (words : List Word)
  | condStore (a t v : Word) (sense : Sense)
  | accumulate (p x y : Word) (variant : Variant)
  | push (d : Word) (mark : Bool) (count : BitVec 5) (values : List Word)
  | pop (d : Word) (count : BitVec 5)
  | flushLine (a : Word)
  | discardLine (a : Word)
  | repairLine (a : Word)
  | flushAll
  | apertureRead (offset : Word)
  | apertureWrite (offset w : Word)
  | join
  | leave
  | ackFault
  | ackMembership
  | unknownRequestKind (code : BitVec 5)
  | completionTake
  | contentionRound (others : List Contender) (void : Bool)
  | publication (pub : Publication)
  | fetchTally (t : Tally)
  | fetchOwnTally (t : Tally)
  | claimTally (t : Tally)
  | readDirectTally (t : Tally)
  | writeThroughTally (t : Tally)
  | operateTally (t : Tally)
  | returnTally (t : Tally)
  | releaseTally (t : Tally)
  | recallReadTally (t : Tally)
  | recallAllTally (t : Tally)
  | dataTally (t : Tally)
  | joinTally (t : Tally)
  | readyTally (t : Tally)
  | leaveTally (t : Tally)
  | unassignedKindTally (t : Tally)
  | dataDeadlineExpiry (p : RecordTag)
  | settleTimerExpiry
  | supplyReadEnd (err : Bool)
  | localHomeReadEnd (err : Bool)
  | memoryWriteEnd
  | operationRunEnd (err : Bool)
  | positionGrant
  | waitingRequestResumed (t : Tag)
  | drainComplete
  | stationReset
  | powerOnReset (sn : BitVec 4)
  deriving DecidableEq, Repr

end Sys2Proof
end

