-- ==== Sys2Proof/Decode.lean ====
section
/-! DEFINITION. Words to commands. The table of this block gives no row any bits, so no table word spells a
command. The request words of the local port (11_formats.md section 11.2, R181) are read here. -/
namespace Sys2Proof

/-- No row of spec/opcode_table.json gives bits: no word spells a command. -/
def decodeTableWord (_nbits _w : Nat) : Option Instr := none

/-! ### The words of a request at the local port (11_formats.md section 11.2) -/

/-- The request kind code of word 0, bits 4:0. -/
def portKind (w : Word) : BitVec 5 := w.extractLsb' 0 5

/-- The count field of word 0, bits 12:8. -/
def portCount (w : Word) : BitVec 5 := w.extractLsb' 8 5

/-- The mark of a PUSH, bit 16 of word 0. -/
def portMark (w : Word) : Bool := w.getLsbD 16

/-- The sense of a COND_STORE, bit 17 of word 0: every value is assigned (R181). -/
def portSense (w : Word) : Sense := if w.getLsbD 17 then .nonzero else .zero

/-- The variant of an ACCUMULATE, bits 19:18 of word 0: every value is assigned (R181). -/
def portVariant (w : Word) : Variant :=
  match w.getLsbD 19, w.getLsbD 18 with
  | false, false => .addSigned
  | false, true => .addUnsigned
  | true, false => .subSigned
  | true, true => .subUnsigned

/-- The command that a request's words present: kind code, word 0, word 1, and the words from word 2 on.
Fields a kind does not use are ignored, codes 0 and 17 to 31 are the unknown kind (R160, R181). Words that
are not as many as the kind and the count carry are no request (log entry 21). -/
def decodeRequest (code : Nat) (w0 w1 : Word) (rest : List Word) : Option Instr :=
  let n := portCount w0
  match code with
  | 1 => if rest = [] then some (.read w1 n) else none
  | 2 =>
    match rest with
    | e0 :: e1 :: ws => if ws.length = n.toNat then some (.write w1 n (e1 ++ e0) ws) else none
    | _ => none
  | 3 =>
    match rest with
    | [t, v] => some (.condStore w1 t v (portSense w0))
    | _ => none
  | 4 =>
    match rest with
    | [x, y] => some (.accumulate w1 x y (portVariant w0))
    | _ => none
  | 5 => if rest.length = n.toNat then some (.push w1 (portMark w0) n rest) else none
  | 6 => if rest = [] then some (.pop w1 n) else none
  | 7 => if rest = [] then some (.flushLine w1) else none
  | 8 => if rest = [] then some (.discardLine w1) else none
  | 9 => if rest = [] then some (.repairLine w1) else none
  | 10 => if rest = [] then some .flushAll else none
  | 11 => if rest = [] then some (.apertureRead w1) else none
  | 12 =>
    match rest with
    | [w] => some (.apertureWrite w1 w)
    | _ => none
  | 13 => if rest = [] then some .join else none
  | 14 => if rest = [] then some .leave else none
  | 15 => if rest = [] then some .ackFault else none
  | 16 => if rest = [] then some .ackMembership else none
  | _ => some (.unknownRequestKind (portKind w0))

/-- The command that a sequence of port words spells. -/
def decodePort : List Word → Option Instr
  | w0 :: w1 :: rest => decodeRequest (portKind w0).toNat w0 w1 rest
  | _ => none

end Sys2Proof
end

