-- ==== Sys2Proof/Config.lean ====
section
/-! DEFINITION. What the part fixes, and the free values the manual leaves open. -/
namespace Sys2Proof

/-- The part code and revision of the identity word (11_formats.md section 11.3). -/
def Config.identity : Word := 0x24080001#32

/-- The retry count at which a record closes CONTENDED (R91, R92). -/
def Config.retryLimit : Nat := 32

/-- The free value of a word that a line fill needs and its DATA does not carry (R26 states that a
line fill carries sixteen words; what a slot or line holds where one carries fewer is not stated).
Nothing is known of it. State.freeNext gives a fresh index each time (log entry 6). -/
opaque Config.freeWord : Nat → Word

end Sys2Proof
end

