-- ==== Sys2Proof/Machine/State.lean ====
section
/-! DEFINITION. Everything the manual gives one station, as plain data, and the station after reset. -/
namespace Sys2Proof.Machine

/-- No command of this block stops the model with a fault: the manual leaves no command undefined,
and the station's own faults are notices in its fault record (R172). So there is no constructor. -/
inductive Fault where
  deriving DecidableEq, Repr

/-- A command without a meaning. -/
inductive Refusal where
  /-- Raised by an arm of exec whose command has no meaning yet. Safe: nothing follows from it. -/
  | notModelled (mnemonic : String)
  deriving DecidableEq, Repr

/-- The station state (R39). -/
inductive StationState where
  | unjoined | joining | settling | member | leaving | halted
  deriving DecidableEq, Repr

/-- The statuses of completions and of DATA (11_formats.md section 11.4), in code order. -/
inductive Status where
  | ok | condFalse | lostData | memoryError | noAnswer | homeAbsent | contended | isProtected
  | unmapped | misaligned | unsupported | stackLow | stackHigh | stackBad | notMember | noSlot
  | halted | configInvalid | joinRefused | locked | retainedLines
  deriving DecidableEq, Repr

/-- The window decoder's state (R2, R8, R16). -/
structure Decoder where
  table : WindowTable
  sizeCode : BitVec 3
  frozen : Bool
  deriving DecidableEq, Repr

/-- A request-class offer (R21): a record by its position, or one of the membership tenures. -/
inductive Offer where
  | record (p : RecordTag)
  | join
  | ready (joiner : Station)
  | leave
  deriving DecidableEq, Repr

/-- What a tenure of this station was published from (R21): a supply entry or an offer. -/
inductive Source where
  | supply (e : Fin 4)
  | offer (o : Offer)
  deriving DecidableEq, Repr

/-- The pool bus as this station sees it (R19): free, or a tenure published and not yet tallied, with
what of this station it was published from, the reply this station drove (0: silent), and the record
of the exhaustion recall that the reply started (R126). -/
inductive BusPhase where
  | free
  | tenure (pub : Publication) (own : Option Source) (drove : ReplyCode) (exhaustion : Option RecordTag)
  deriving DecidableEq, Repr

/-- The class of a contention request (R21). -/
inductive Class where
  | supply | request
  deriving DecidableEq, Repr

/-- The bus interface (R21, R23). `offers` has the offer that has waited longest first; `fresh` holds
the offers of the step under way and is empty between steps. `contention` is the request presented in
the last round and not won. -/
structure BusInterface where
  reference : Option Station
  contention : Option Class
  offers : List Offer
  fresh : List Offer
  phase : BusPhase
  deriving DecidableEq, Repr

/-- One entry of the ready list (R46): the joiner, the copy slots still to be returned to it, and the
positions of the records counted as returns owed to it. -/
structure ReadyEntry where
  joiner : Station
  listed : List Nat
  owed : List RecordTag
  deriving DecidableEq, Repr

/-- The membership controller beside the station state (R41, R47 to R49, R59). -/
structure Membership where
  present : StationSet
  awaited : StationSet
  timer : Bool
  ready : List ReadyEntry
  changed : Bool
  deriving DecidableEq, Repr

/-- What a record carries onto the bus beyond kind, line and tag (R84). `exhausted` marks the recall
of an exhausted loan set (R126); its tenure carries nothing. -/
inductive Payload where
  | none
  | words (first : BitVec 4) (count : BitVec 5)
  | writeThrough (mask : BitVec 16) (enables : BitVec 64) (words : Line)
  | operate (op : Operation)
  | exhausted
  deriving DecidableEq, Repr

/-- Whether a record still seeks its tally or waits for DATA (R83). -/
inductive Phase where
  | waitingBus | waitingData
  deriving DecidableEq, Repr

/-- A record of the pending request table (R83). The slot is its number in the copy table,
set x 4 + way. -/
structure Record where
  kind : Kind
  line : LineAddr
  slot : Option Nat
  phase : Phase
  retry : Nat
  supplier : Option Station
  deadline : Bool
  tags : List Tag
  payload : Payload
  deriving DecidableEq, Repr

/-- Whom a reserved position is kept for (R82): the successor of an eviction with its way, or the
waiter at the head of the grant order that needs two. -/
inductive Waiter where
  | successor (t : Tag) (slot : Nat)
  | head (t : Tag)
  deriving DecidableEq, Repr

/-- A position of the pending request table (R82). -/
inductive Position where
  | free
  | holding (r : Record)
  | reserved (w : Waiter)
  | fenced (line : LineAddr) (supplier : Station)
  deriving DecidableEq, Repr

/-- The state of a copy slot (R61). -/
inductive SlotState where
  | void | read | held | filling | owning | upgrading | evicting
  deriving DecidableEq, Repr

/-- A copy slot (R61). -/
structure Slot where
  line : LineAddr
  state : SlotState
  dirty : Bool
  lost : Bool
  rank : Fin 4
  words : Line
  deriving DecidableEq, Repr

/-- The flush walk (R80). `records` holds the positions of its records not yet closed. -/
structure Walk where
  tag : Tag
  slots : List Nat
  records : List RecordTag
  contended : Bool
  deriving DecidableEq, Repr

/-- The copy table (R61, R80): the slots by number, set x 4 + way, those that differ from the reset
slot of their way alone; and the flush walk. -/
structure CopyTable where
  slots : List (Nat × Slot)
  walk : Option Walk
  deriving DecidableEq, Repr

/-- A DATA as a supply entry holds it (R26). -/
structure Supply where
  line : LineAddr
  tag : RecordTag
  data : Data
  deriving DecidableEq, Repr

/-- A supply queue entry (R115). An awaiting entry keeps the kind of the tenure it answers. -/
inductive SupplyEntry where
  | free
  | reserved (publisher : Station) (kind : Kind) (line : LineAddr) (tag : RecordTag)
  | awaiting (d : Supply) (kind : Kind)
  | ready (d : Supply)
  deriving DecidableEq, Repr

/-- The supply queue (R115): the entries, and the ready ones in the order they became ready (R118). -/
structure SupplyQueue where
  entries : Vector SupplyEntry 4
  order : List (Fin 4)
  deriving DecidableEq, Repr

/-- A loan entry (R121). It keeps the line address beside the index, for the tenures that name it. -/
structure LoanEntry where
  index : Nat
  line : LineAddr
  holders : StationSet
  heldBy : Option Station
  owedBy : Option Station
  lost : Bool
  busy : Bool
  deriving DecidableEq, Repr

/-- A way of the loan table, occupied or free (R122). -/
structure LoanWay where
  rank : Fin 8
  entry : Option LoanEntry
  deriving DecidableEq, Repr

/-- What a LOCAL home queue entry waits for (R138). -/
inductive LocalCondition where
  | behind | waitingPosition | waitingRecall | acting
  deriving DecidableEq, Repr

/-- A home queue entry (R138). -/
inductive HomeEntry where
  | free
  | reserved (publisher : Station) (line : LineAddr) (tag : RecordTag)
  | operation (line : LineAddr) (requester : Station) (tag : RecordTag) (op : Operation)
      (awaited : Option Station) (lostData : Bool) (supply : Fin 4)
  | request (line : LineAddr) (t : Tag) (c : LocalCondition)
  deriving DecidableEq, Repr

/-- The home queue (R138): the entries, and those in use or reserved in the order they were made. -/
structure HomeQueue where
  entries : Vector HomeEntry 8
  order : List (Fin 8)
  deriving DecidableEq, Repr

/-- The home memory: bytes by bank address, those that differ from what an unlisted one reads as. -/
abbrev Memory := List Host.Cell

/-- For whom an operation run is carried out (R151): a local request, or a home queue entry. -/
inductive RunOwner where
  | request (t : Tag)
  | operation (e : Fin 8)
  deriving DecidableEq, Repr

/-- An operation run (R151). `refusal` is the outcome of the home's own check of the fields (R149);
`lost` says whether the place of performance marks the line as possibly lost (R157). -/
structure Run where
  owner : RunOwner
  op : PoolOp
  line : LineAddr
  lost : Bool
  refusal : Option Status
  deriving DecidableEq, Repr

/-- An access that becomes due at the bank (R119, R151): a write of bytes, the same for a local
request, a supply read, a local read, or a run. -/
inductive Due where
  | store (cells : List Host.Cell)
  | localStore (t : Tag) (cells : List Host.Cell)
  | supplyRead (e : Fin 4) (index : Nat)
  | localRead (t : Tag) (index first count : Nat)
  | operate (r : Run)
  deriving DecidableEq, Repr

/-- An access issued and not yet ended (R119), with the words a read returns. `none`: the result of
the access is not used (a halt, a reset, or a request completed without it). -/
inductive Access where
  | supplyRead (e : Option (Fin 4)) (words : Line)
  | localRead (t : Option Tag) (lost : Bool) (words : List Word)
  | localStore (t : Option Tag)
  deriving DecidableEq, Repr

/-- The memory interface (R119, R151). -/
structure Bank where
  mem : Memory
  run : Option Run
  held : List Due
  inFlight : List Access
  deriving DecidableEq, Repr

/-- What an open request has reached, or waits for (R159, R166). -/
inductive Progress where
  /-- The station becoming MEMBER (R40). -/
  | waitsMember
  /-- An earlier request, a record or a transient slot of its line (R67, R84). -/
  | line
  /-- A way of its set leaving its transient state; due to be handled anew once one has (R77). -/
  | setWay (due : Bool)
  /-- A pending position (R85). -/
  | position
  /-- The way of an eviction it succeeds (R76). -/
  | successor (slot : Nat)
  /-- Placed on a record's list of waiting tags (R83). -/
  | onRecord (p : RecordTag)
  /-- A free home queue entry (R140). -/
  | homeFull
  /-- In the home queue (R138). -/
  | homeQueue
  /-- An access at the bank, without a home queue entry (R140). -/
  | bank
  /-- The flush walk, its own (R80). -/
  | walk
  /-- An earlier flush walk (R80). -/
  | walkWait
  /-- A member of the command stream, with its outcome once it is decided (R163). -/
  | stream (decided : Option (Status × List Word))
  deriving DecidableEq, Repr

/-- An entry of the local request queue (R159). -/
inductive PortEntry where
  | free
  | opened (r : Request) (p : Progress)
  | done (st : Status) (ws : List Word)
  deriving DecidableEq, Repr

/-- The local port (R159, R160, R164). -/
structure LocalPort where
  entries : Vector PortEntry 8
  taken : List Tag
  completions : List Tag
  presented : List Request
  deriving DecidableEq, Repr

/-- The kinds of fault notices (R172). -/
inductive NoticeKind where
  | supplyOverdue | loanMismatch | lineLost | memoryError | tallyConflict | settleOverdue
  deriving DecidableEq, Repr

/-- A fault notice (R172). -/
structure Notice where
  kind : NoticeKind
  station : Option Station
  line : Option LineAddr
  count : Option Nat
  deriving DecidableEq, Repr

/-- One station (00_scope.md section 3), and the queue of the commands that wait to reach it. -/
structure State where
  pending : List Instr
  number : Station
  state : StationState
  decoder : Decoder
  bus : BusInterface
  members : Membership
  positions : Vector Position 4
  copy : CopyTable
  supply : SupplyQueue
  loans : List (Nat × LoanWay)
  homeQueue : HomeQueue
  bank : Bank
  port : LocalPort
  faults : List Notice
  freeNext : Nat
  deriving DecidableEq, Repr

/-- A window entry as reset leaves it: invalid, every field zero (R18). -/
def entryReset : WindowEntry :=
  { valid := false, base := 0, sizeCode := 0, mode := .uncached, stripeCode := 0,
    stripes := #v[0, 0, 0, 0, 0, 0, 0, 0], homeBase := 0, writers := 0 }

/-- The window decoder at reset (R18). -/
def Decoder.reset : Decoder :=
  { table := #v[entryReset, entryReset, entryReset, entryReset, entryReset, entryReset,
                entryReset, entryReset,
                entryReset, entryReset, entryReset, entryReset, entryReset, entryReset,
                entryReset, entryReset],
    sizeCode := 0, frozen := false }

/-- The bus interface at reset (R23, R38). -/
def BusInterface.reset : BusInterface :=
  { reference := none, contention := none, offers := [], fresh := [], phase := .free }

/-- The membership controller at reset (R41, R47, R48, R49, R59). -/
def Membership.reset : Membership :=
  { present := 0, awaited := 0, timer := false, ready := [], changed := false }

/-- The supply queue at reset (R115). -/
def SupplyQueue.reset : SupplyQueue := { entries := #v[.free, .free, .free, .free], order := [] }

/-- The home queue at reset (R138). -/
def HomeQueue.reset : HomeQueue :=
  { entries := #v[.free, .free, .free, .free, .free, .free, .free, .free], order := [] }

/-- The local port at reset (R171). -/
def LocalPort.reset : LocalPort :=
  { entries := #v[.free, .free, .free, .free, .free, .free, .free, .free],
    taken := [], completions := [], presented := [] }

/-- The station right after power-on reset. The station number (log entry 4) and the bank's contents
(log entry 5) are the model's: the manual takes the one from the pins and gives none for the other. -/
def State.reset : State :=
  { pending := [], number := 0, state := .unjoined, decoder := .reset, bus := .reset,
    members := .reset, positions := #v[.free, .free, .free, .free],
    copy := { slots := [], walk := none }, supply := .reset, loans := [], homeQueue := .reset,
    bank := { mem := [], run := none, held := [], inFlight := [] }, port := .reset,
    faults := [], freeNext := 0 }

end Sys2Proof.Machine
end

