-- ==== Sys2Proof/Machine/Tables.lean ====
section
/-! DEFINITION. Sparse tables by number in one canonical form (the home memory, the copy table and the
loan table are kept so), lines and their bytes, and the home memory's reads and writes. -/
namespace Sys2Proof.Machine

/-- The value at k: the listed one, or what an unlisted number reads as. -/
def tableGet {α : Type} (d : Nat → α) (k : Nat) : List (Nat × α) → α
  | [] => d k
  | (j, v) :: t => if j = k then v else tableGet d k t

/-- The table with v at k, in canonical form: storing what an unlisted number reads as unlists it. -/
def tableSet {α : Type} [DecidableEq α] (d : Nat → α) (k : Nat) (v : α) :
    List (Nat × α) → List (Nat × α)
  | [] => if v = d k then [] else [(k, v)]
  | (j, w) :: t =>
    if k < j then (if v = d k then (j, w) :: t else (k, v) :: (j, w) :: t)
    else if k = j then (if v = d k then t else (k, v) :: t)
    else (j, w) :: tableSet d k v t

/-- The table with f applied to every listed value, in canonical form. -/
def tableMap {α : Type} [DecidableEq α] (d : Nat → α) (f : Nat → α → α) :
    List (Nat × α) → List (Nat × α)
  | [] => []
  | (k, v) :: t => if f k v = d k then tableMap d f t else (k, f k v) :: tableMap d f t

/-- Every number of the table lies above k, and no two are in falling order. -/
def tableSortedFrom {α : Type} (k : Nat) : List (Nat × α) → Bool
  | [] => true
  | (j, _) :: t => k < j && tableSortedFrom j t

/-- Numbers strictly rising. -/
def tableSorted {α : Type} : List (Nat × α) → Bool
  | [] => true
  | (j, _) :: t => tableSortedFrom j t

/-- The canonical form: numbers strictly rising, and none listed at what an unlisted one reads as. -/
def tableWf {α : Type} [DecidableEq α] (d : Nat → α) (t : List (Nat × α)) : Bool :=
  tableSorted t && t.all (fun e => e.2 ≠ d e.1)

/-- The sixteen words of a line, from a function of the word index. -/
def lineOf (f : Nat → Word) : Line :=
  #v[f 0, f 1, f 2, f 3, f 4, f 5, f 6, f 7, f 8, f 9, f 10, f 11, f 12, f 13, f 14, f 15]

/-- Word i of a line. -/
def lineWord (l : Line) (i : Nat) : Word := if h : i < 16 then l[i] else 0

/-- A line of zero words. -/
def lineZero : Line := lineOf fun _ => 0

/-- Byte i of a word, 0 the lowest-addressed, which is the least significant (R1). -/
def wordByte (w : Word) (i : Nat) : Byte := BitVec.truncate 8 (w >>> (8 * i))

/-- The word of four bytes, the lowest-addressed first (R1). -/
def wordOfBytes (b0 b1 b2 b3 : Byte) : Word := b3 ++ b2 ++ b1 ++ b0

/-- The word with the bytes of `new` whose enables are set, and the bytes of `old` elsewhere (R69). -/
def mergeWord (old new : Word) (enable : Nat → Bool) : Word :=
  wordOfBytes (if enable 0 then wordByte new 0 else wordByte old 0)
    (if enable 1 then wordByte new 1 else wordByte old 1)
    (if enable 2 then wordByte new 2 else wordByte old 2)
    (if enable 3 then wordByte new 3 else wordByte old 3)

/-- The line with the enabled bytes of `new`; bit 4w + i enables byte i of word w. -/
def mergeLine (old new : Line) (enables : BitVec 64) : Line :=
  lineOf fun w => mergeWord (lineWord old w) (lineWord new w) fun i => enables.getLsbD (4 * w + i)

/-- n words of a line from word `first` on. -/
def sliceLine (l : Line) (first n : Nat) : List Word :=
  (List.range n).map fun i => lineWord l (first + i)

/-- What a byte of the bank that nothing has written reads as (log entry 5). -/
def memDefault : Nat → Byte := fun _ => 0

/-- The memory is in canonical form: addresses strictly rising, no byte listed that reads as an
unlisted one. -/
def Memory.wf (m : Memory) : Bool := tableWf memDefault m

/-- The byte at a bank address (R8). -/
def readByte (m : Memory) (a : Nat) : Byte := tableGet memDefault a m

/-- One byte stored at a bank address. -/
def writeByte (m : Memory) (a : Nat) (b : Byte) : Memory := tableSet memDefault a b m

/-- The word of the four bytes from bank address a on (R1, R8). -/
def readWord (m : Memory) (a : Nat) : Word :=
  wordOfBytes (readByte m a) (readByte m (a + 1)) (readByte m (a + 2)) (readByte m (a + 3))

/-- The sixteen words of home line index i (R8, R119). -/
def readLine (m : Memory) (i : Nat) : Line := lineOf fun w => readWord m (i * 64 + 4 * w)

/-- Bytes stored one after another. -/
def writeCells (m : Memory) (cells : List Host.Cell) : Memory :=
  cells.foldl (fun m c => writeByte m c.1 c.2) m

/-- The bytes that a line write of the enabled bytes of l stores at home line index i (R119). -/
def lineCells (i : Nat) (l : Line) (enables : BitVec 64) : List Host.Cell :=
  (List.range 64).filterMap fun b =>
    if enables.getLsbD b then some (i * 64 + b, wordByte (lineWord l (b / 4)) (b % 4)) else none

/-- The bytes of one word at a bank address. -/
def wordCells (a : Nat) (w : Word) : List Host.Cell :=
  [(a, wordByte w 0), (a + 1, wordByte w 1), (a + 2, wordByte w 2), (a + 3, wordByte w 3)]

/-- Every byte of a line enabled. -/
def allBytes : BitVec 64 := BitVec.allOnes 64

/-- The byte enables of n words from word `first` on, all bytes of each. -/
def wordEnables (first n : Nat) : BitVec 64 :=
  BitVec.ofNat 64 ((2 ^ (4 * n) - 1) * 2 ^ (4 * first))

/-- The byte enables of the words a word mask names (R25). -/
def maskEnables (mask : BitVec 16) : BitVec 64 :=
  BitVec.ofNat 64 ((List.range 16).foldl
    (fun acc w => if mask.getLsbD w then acc + 15 * 16 ^ w else acc) 0)

/-- The stations 0 to 15 in ascending order. -/
def allStations : List Station := [0, 1, 2, 3, 4, 5, 6, 7, 8, 9, 10, 11, 12, 13, 14, 15]

/-- The tags 0 to 7 in ascending order. -/
def allTags : List Tag := [0, 1, 2, 3, 4, 5, 6, 7]

/-- Four numbers in ascending order: pending positions, supply entries. -/
def allFour : List (Fin 4) := [0, 1, 2, 3]

/-- A set of stations holds a station (11_formats.md). -/
def inSet (set : StationSet) (p : Station) : Bool := set.getLsbD p.val

/-- The set of one station. -/
def single (p : Station) : StationSet := BitVec.ofNat 16 (2 ^ p.val)

/-- How many stations a set holds. -/
def setCount (set : StationSet) : Nat := (allStations.filter (inSet set)).length

/-- The set of the stations for which f holds. -/
def setWhere (f : Station → Bool) : StationSet :=
  allStations.foldl (fun acc p => if f p then acc ||| single p else acc) 0

end Sys2Proof.Machine
end

