-- ==== Sys2Proof/Machine/Operands.lean ====
section
/-! DEFINITION. The window decoder: addresses, windows, resolution, the checks of requests and of the
JOIN command, and the words of the configuration aperture (01_pool_addresses_and_windows.md,
09_the_local_port.md section 9.4, 11_formats.md section 11.3). -/
namespace Sys2Proof.Machine

/-- The line address of a pool address (R1). -/
def lineOfAddr (a : Word) : LineAddr := BitVec.ofNat 26 (a.toNat / 64)

/-- The word index of a pool address (R1). -/
def wordIndex (a : Word) : Nat := (a.toNat % 64) / 4

/-- The stripe count n of a window (R2). -/
def stripeCount (e : WindowEntry) : Nat := 2 ^ e.stripeCode.toNat

/-- The lowest pool address of a window (R3). -/
def windowBase (e : WindowEntry) : Nat := e.base.toNat * 65536

/-- The size of a window in bytes (R3). -/
def windowBytes (e : WindowEntry) : Nat := 65536 * 2 ^ e.sizeCode.toNat

/-- The size of a window in lines (R3). -/
def windowLines (e : WindowEntry) : Nat := 1024 * 2 ^ e.sizeCode.toNat

/-- A valid window whose range contains the address (R3, R6). -/
def windowContains (e : WindowEntry) (a : Nat) : Bool :=
  e.valid && windowBase e ≤ a && a < windowBase e + windowBytes e

/-- The stripe station s[j] of a window (R2). -/
def stripeAt (e : WindowEntry) (j : Nat) : Station := if h : j < 8 then e.stripes[j] else 0

/-- The stripe stations s[0] to s[n - 1] (R2). -/
def stripeStations (e : WindowEntry) : List Station := e.stripes.toList.take (stripeCount e)

/-- The line offset k of an address in a window (R7). -/
def lineOffset (e : WindowEntry) (a : Nat) : Nat := (a - windowBase e) / 64

/-- The home station of an address in a window, seen from station `self` (R7). -/
def homeStation (self : Station) (e : WindowEntry) (a : Nat) : Station :=
  if e.mode = .priv then self else stripeAt e (lineOffset e a % stripeCount e)

/-- The home line index of an address in a window (R7). -/
def homeIndex (e : WindowEntry) (a : Nat) : Nat :=
  e.homeBase.toNat * 1024 +
    (if e.mode = .priv then lineOffset e a else lineOffset e a / stripeCount e)

/-- The bank address of a pool address in a window: its byte within its home line (R7, R8). -/
def bankAddr (e : WindowEntry) (a : Nat) : Nat := homeIndex e a * 64 + a % 64

/-- The lines of the home memory that a size code gives (R8). -/
def bankLines (code : BitVec 3) : Nat := if code.toNat ≤ 4 then 262144 * 2 ^ code.toNat else 0

/-- What the window decoder hands on for an address (R7). -/
structure Resolved where
  window : Station
  entry : WindowEntry
  home : Station
  index : Nat
  word : Nat
  line : LineAddr
  here : Bool
  writer : Bool
  deriving DecidableEq, Repr

/-- The window of a table that contains an address (R6). -/
def findWindow (t : WindowTable) (a : Nat) : Option Station :=
  allStations.find? fun i => windowContains t[i] a

/-- The resolution of a pool address by this station's table (R6, R7). -/
def State.resolve (s : State) (a : Nat) : Option Resolved :=
  match findWindow s.decoder.table a with
  | none => none
  | some i =>
    let e := s.decoder.table[i]
    some { window := i, entry := e, home := homeStation s.number e a, index := homeIndex e a,
           word := (a % 64) / 4, line := BitVec.ofNat 26 (a / 64),
           here := homeStation s.number e a = s.number, writer := inSet e.writers s.number }

/-- The resolution of a line address (R9). -/
def State.resolveLine (s : State) (l : LineAddr) : Option Resolved := s.resolve (l.toNat * 64)

/-- The station a line tenure's home position belongs to (R9, R34); none for a line in no valid
window or in a PRIVATE window, which no station publishes (log entry 18). -/
def State.lineHome (s : State) (l : LineAddr) : Option Station :=
  match s.resolveLine l with
  | some r => if r.entry.mode = .priv then none else some r.home
  | none => none

/-- The home line index of a line homed here (R9). -/
def State.homedHere (s : State) (l : LineAddr) : Option Nat :=
  match s.resolveLine l with
  | some r => if r.entry.mode ≠ .priv && r.here then some r.index else none
  | none => none

/-- The line may occupy a copy slot here (R9). -/
def State.copyable (s : State) (l : LineAddr) : Bool :=
  match s.resolveLine l with
  | some r => (r.entry.mode = .coherentWT || r.entry.mode = .coherentWB) && !r.here
  | none => false

/-- The home of a line is in this station's membership set (R75, R78, R80). -/
def State.homePresent (s : State) (l : LineAddr) : Bool :=
  match s.lineHome l with
  | some h => inSet s.members.present h
  | none => false

/-- The principal address of a pool operation (R144). -/
def opAddress : PoolOp → Word
  | .condStore a _ _ _ => a
  | .accumulate p _ _ _ => p
  | .push d _ _ _ => d
  | .pop d _ => d

/-- The pool address a request carries (R161, R162). -/
def requestAddress : Request → Option Word
  | .read a _ => some a
  | .write a _ _ _ => some a
  | .operation op => some (opAddress op)
  | .flushLine a => some a
  | .discardLine a => some a
  | .repairLine a => some a
  | .flushAll | .apertureRead _ | .apertureWrite _ _ | .join | .leave | .ackFault
  | .ackMembership | .unknown _ => none

/-- The line a request concerns. -/
def requestLine (r : Request) : Option LineAddr := (requestAddress r).map lineOfAddr

/-- The copy table's set of the line a request concerns (R61). -/
def requestSet (r : Request) : Option Nat := (requestLine r).map fun l => l.toNat % 512

/-- The number of words a PUSH pushes, the mark word included (R144). -/
def pushCount (mark : Bool) (m : Nat) : Nat := if mark then m + 1 else m

/-- The fields of a pool operation are acceptable (R145): not MISALIGNED. -/
def opAligned : PoolOp → Bool
  | .condStore a t _ _ => a.toNat % 4 = 0 && t.toNat % 4 = 0 && a.toNat / 64 = t.toNat / 64
  | .accumulate p _ _ _ => p.toNat % 8 = 0
  | .push d mark m _ =>
    d.toNat % 16 = 0 && 1 ≤ m.toNat && pushCount mark m.toNat ≤ 8
  | .pop d n => d.toNat % 16 = 0 && 1 ≤ n.toNat && n.toNat ≤ 8

/-- The address and span of a request are acceptable for its kind (R12, second check). -/
def requestAligned : Request → Bool
  | .read a n | .write a n _ _ =>
    a.toNat % 4 = 0 && 1 ≤ n.toNat && n.toNat ≤ 16 && wordIndex a + n.toNat ≤ 16
  | .operation op => opAligned op
  | _ => true

/-- A pool operation is permitted in a window (R10, R145, third check). -/
def opSupported (op : PoolOp) (e : WindowEntry) : Bool :=
  match op with
  | .condStore .. | .accumulate .. => true
  | .push .. | .pop .. =>
    e.mode = .priv || (e.mode = .uncached && stripeCount e = 1)

/-- The request kind is permitted in the window's mode (R10; R12, third check). -/
def requestSupported (r : Request) (res : Resolved) : Bool :=
  match r with
  | .operation op => opSupported op res.entry
  | .repairLine _ => res.entry.mode = .priv || res.here
  | _ => true

/-- The request changes contents (R5). -/
def requestChanges : Request → Bool
  | .write .. | .operation _ => true
  | _ => false

/-- The window checks of R12, in their order: the status of the first that fails, or the resolution. -/
def State.windowCheck (s : State) (r : Request) (a : Word) : Except Status Resolved :=
  match s.resolve a.toNat with
  | none => .error .unmapped
  | some res =>
    if !(requestAligned r) then .error .misaligned
    else if !(requestSupported r res) then .error .unsupported
    else if requestChanges r && !res.writer then .error .isProtected
    else .ok res

/-- A station has a home region in a window (R4). -/
def hasRegion (self : Station) (e : WindowEntry) : Bool :=
  e.mode = .priv || (stripeStations e).contains self

/-- The length of a home region in lines (R4). -/
def regionLength (e : WindowEntry) : Nat :=
  if e.mode = .priv then windowLines e else windowLines e / stripeCount e

/-- The first home line index of a home region (R4). -/
def regionStart (e : WindowEntry) : Nat := e.homeBase.toNat * 1024

/-- Two ranges, each a start and a length, share a number. -/
def rangesMeet (a m b n : Nat) : Bool := a < b + n && b < a + m

/-- No station number stands twice in a list. -/
def distinctStations : List Station → Bool
  | [] => true
  | p :: ps => !ps.contains p && distinctStations ps

/-- A window passes against one of lower index (R14): no overlap of pool addresses, none of this
station's home regions. -/
def windowsApart (self : Station) (e f : WindowEntry) : Bool :=
  !f.valid ||
    (!rangesMeet (windowBase e) (windowBytes e) (windowBase f) (windowBytes f) &&
     !(hasRegion self e && hasRegion self f &&
        rangesMeet (regionStart e) (regionLength e) (regionStart f) (regionLength f)))

/-- A window passes the checks of R14 against the windows of lower index. -/
def windowPasses (self : Station) (code : BitVec 3) (lower : List WindowEntry) (e : WindowEntry) :
    Bool :=
  !e.valid ||
    (e.base.toNat % 2 ^ e.sizeCode.toNat = 0 &&
     (e.mode ≠ .priv || stripeCount e = 1) &&
     distinctStations (stripeStations e) &&
     lower.all (windowsApart self e) &&
     (!hasRegion self e || regionStart e + regionLength e ≤ bankLines code))

/-- The first window, in index order, that does not pass (R14). -/
def failingFrom (self : Station) (code : BitVec 3) (lower : List WindowEntry) (i : Nat) :
    List WindowEntry → Option Nat
  | [] => none
  | e :: es =>
    if windowPasses self code lower e then failingFrom self code (lower ++ [e]) (i + 1) es else some i

/-- The failing window of a table at a JOIN command (R14). -/
def failingWindow (self : Station) (code : BitVec 3) (t : WindowTable) : Option Nat :=
  failingFrom self code [] 0 t.toList

/-- Two entries agree in their significant fields (R2, R17). -/
def entriesAgree (e f : WindowEntry) : Bool :=
  (!e.valid && !f.valid) ||
    (e.valid && f.valid && e.base = f.base && e.sizeCode = f.sizeCode && e.mode = f.mode &&
     e.stripeCode = f.stripeCode && e.homeBase = f.homeBase && e.writers = f.writers &&
     (e.mode = .priv || stripeStations e = stripeStations f))

/-- A window's region of the joiner fits in the home memory it announces (R17). -/
def regionFits (joiner : Station) (code : BitVec 3) (e : WindowEntry) : Bool :=
  !e.valid || !hasRegion joiner e || regionStart e + regionLength e ≤ bankLines code

/-- The verdict on an announced image is agree (R17). -/
def imageAgrees (own : WindowTable) (joiner : Station) (code : BitVec 3) (image : WindowTable) :
    Bool :=
  (allStations.all fun i => entriesAgree own[i] image[i]) &&
    image.toList.all (regionFits joiner code)

/-- A pool operation of an OPERATE tenure with its pool addresses (R148, 11_formats.md). -/
def operationOp (op : Operation) (l : LineAddr) : PoolOp :=
  let addr (i : BitVec 4) : Word := BitVec.ofNat 32 (l.toNat * 64 + 4 * i.toNat)
  match op with
  | .condStore a t v sense => .condStore (addr a) (addr t) v sense
  | .accumulate p x y variant => .accumulate (addr p) x y variant
  | .push d mark m vs => .push (addr d) mark (m.zeroExtend 5) vs
  | .pop d n => .pop (addr d) (n.zeroExtend 5)

/-- What an OPERATE record carries of a pool operation (R148). -/
def opOperation : PoolOp → Operation
  | .condStore a t v sense =>
    .condStore (BitVec.ofNat 4 (wordIndex a)) (BitVec.ofNat 4 (wordIndex t)) v sense
  | .accumulate p x y variant => .accumulate (BitVec.ofNat 4 (wordIndex p)) x y variant
  | .push d mark m vs => .push (BitVec.ofNat 4 (wordIndex d)) mark (m.truncate 4) vs
  | .pop d n => .pop (BitVec.ofNat 4 (wordIndex d)) (n.truncate 4)

/-- The home's check of the fields of an OPERATE it received (R149): the first condition of R145 that
fails, MISALIGNED before UNSUPPORTED. -/
def operateRefusal (op : PoolOp) (e : WindowEntry) : Option Status :=
  if !opAligned op then some .misaligned else if !opSupported op e then some .unsupported else none

/-- The code of a status (11_formats.md section 11.4). -/
def Status.code : Status → BitVec 5
  | .ok => 0 | .condFalse => 1 | .lostData => 2 | .memoryError => 3 | .noAnswer => 4
  | .homeAbsent => 5 | .contended => 6 | .isProtected => 7 | .unmapped => 8 | .misaligned => 9
  | .unsupported => 10 | .stackLow => 11 | .stackHigh => 12 | .stackBad => 13 | .notMember => 14
  | .noSlot => 15 | .halted => 16 | .configInvalid => 17 | .joinRefused => 18 | .locked => 19
  | .retainedLines => 20

/-- The statuses in code order. -/
def allStatuses : List Status :=
  [.ok, .condFalse, .lostData, .memoryError, .noAnswer, .homeAbsent, .contended, .isProtected,
   .unmapped, .misaligned, .unsupported, .stackLow, .stackHigh, .stackBad, .notMember, .noSlot,
   .halted, .configInvalid, .joinRefused, .locked, .retainedLines]

/-- The status of a code; none for the unassigned codes 21 to 31 (11_formats.md section 11.4). -/
def statusOf (c : BitVec 5) : Option Status := allStatuses.find? fun st => st.code = c

/-- The code of a mode (11_formats.md section 11.3). -/
def modeCode : Mode → Nat
  | .uncached => 0 | .coherentWT => 1 | .coherentWB => 2 | .priv => 3

/-- The mode of a code. -/
def modeOf (c : Nat) : Mode :=
  if c = 0 then .uncached else if c = 1 then .coherentWT else if c = 2 then .coherentWB else .priv

/-- The code of a station state (11_formats.md section 11.3). -/
def StationState.code : StationState → Nat
  | .unjoined => 0 | .joining => 1 | .settling => 2 | .member => 3 | .leaving => 4 | .halted => 5

/-- The code of a notice kind (11_formats.md section 11.3). -/
def NoticeKind.code : NoticeKind → Nat
  | .supplyOverdue => 1 | .loanMismatch => 2 | .lineLost => 3 | .memoryError => 4
  | .tallyConflict => 5 | .settleOverdue => 6

/-- Bits lo to lo + n - 1 of a word, as a number. -/
def field (w : Word) (lo n : Nat) : Nat := w.toNat / 2 ^ lo % 2 ^ n

/-- Aperture word j, 0 to 3, of a window entry (11_formats.md section 11.3). -/
def entryWord (e : WindowEntry) (j : Nat) : Word :=
  BitVec.ofNat 32
    (if j = 0 then
      e.base.toNat + e.sizeCode.toNat * 2 ^ 16 + e.stripeCode.toNat * 2 ^ 24 +
        modeCode e.mode * 2 ^ 28 + e.valid.toNat * 2 ^ 31
    else if j = 1 then
      (stripeAt e 0).val + (stripeAt e 1).val * 2 ^ 4 + (stripeAt e 2).val * 2 ^ 8 +
        (stripeAt e 3).val * 2 ^ 12 + (stripeAt e 4).val * 2 ^ 16 + (stripeAt e 5).val * 2 ^ 20 +
        (stripeAt e 6).val * 2 ^ 24 + (stripeAt e 7).val * 2 ^ 28
    else if j = 2 then e.homeBase.toNat
    else e.writers.toNat)

/-- The station number in bits 4j+3:4j of a word. -/
def stationField (w : Word) (j : Nat) : Station := Fin.ofNat 16 (field w (4 * j) 4)

/-- A window entry with aperture word j written: the fields that word holds, no others (R13, R181). -/
def entryWritten (e : WindowEntry) (j : Nat) (w : Word) : WindowEntry :=
  if j = 0 then
    { e with base := BitVec.ofNat 16 (field w 0 16), sizeCode := BitVec.ofNat 4 (field w 16 4),
             stripeCode := BitVec.ofNat 2 (field w 24 2), mode := modeOf (field w 28 2),
             valid := w.getLsbD 31 }
  else if j = 1 then
    { e with stripes := #v[stationField w 0, stationField w 1, stationField w 2, stationField w 3,
                           stationField w 4, stationField w 5, stationField w 6, stationField w 7] }
  else if j = 2 then { e with homeBase := BitVec.ofNat 12 (field w 0 12) }
  else { e with writers := BitVec.ofNat 16 (field w 0 16) }

/-- Aperture word j, 0 or 1, of a fault notice (11_formats.md section 11.3). -/
def noticeWord (n : Notice) (j : Nat) : Word :=
  BitVec.ofNat 32
    (if j = 0 then
      n.kind.code +
        (match n.station with | some p => 2 ^ 3 + p.val * 2 ^ 4 | none => 0) +
        (match n.line with | some _ => 2 ^ 8 | none => 0) +
        (match n.count with | some c => 2 ^ 9 + c % 1024 * 2 ^ 16 | none => 0)
    else match n.line with | some l => l.toNat | none => 0)

/-- The word of the fault record at a notice position: the empty notice where none is held (R167). -/
def faultWord (faults : List Notice) (i j : Nat) : Word :=
  match faults[i]? with
  | some n => noticeWord n j
  | none => 0

/-- The items of the aperture (R167, 11_formats.md section 11.3). -/
inductive Item where
  | identity | number | state | present | awaited | sizeCode
  | entry (i : Station) (j : Nat)
  | notice (i j : Nat)
  | unassigned
  deriving DecidableEq, Repr

/-- The item at a word offset (11_formats.md section 11.3). -/
def itemAt (offset : Word) : Item :=
  let o := offset.toNat
  if o = 0 then .identity
  else if o = 1 then .number
  else if o = 2 then .state
  else if o = 3 then .present
  else if o = 4 then .awaited
  else if o = 5 then .sizeCode
  else if 0x10 ≤ o && o < 0x50 then .entry (Fin.ofNat 16 ((o - 0x10) / 4)) ((o - 0x10) % 4)
  else if 0x50 ≤ o && o < 0x54 then .notice ((o - 0x50) / 2) ((o - 0x50) % 2)
  else .unassigned

/-- The word an aperture read returns (R167): zero at an unassigned offset. -/
def State.apertureWord (s : State) (offset : Word) : Word :=
  match itemAt offset with
  | .identity => Config.identity
  | .number => BitVec.ofNat 32 s.number.val
  | .state => BitVec.ofNat 32 s.state.code
  | .present => s.members.present.zeroExtend 32
  | .awaited => s.members.awaited.zeroExtend 32
  | .sizeCode => s.decoder.sizeCode.zeroExtend 32
  | .entry i j => entryWord s.decoder.table[i] j
  | .notice i j => faultWord s.faults i j
  | .unassigned => 0

/-- An aperture write of a writable item, in UNJOINED (R13, R168); others change nothing. -/
def State.apertureWritten (s : State) (offset w : Word) : State :=
  match itemAt offset with
  | .sizeCode => { s with decoder := { s.decoder with sizeCode := BitVec.ofNat 3 (field w 0 3) } }
  | .entry i j =>
    { s with decoder := { s.decoder with
        table := s.decoder.table.set i (entryWritten s.decoder.table[i] j w) } }
  | _ => s

/-- The item takes writes (R168). -/
def Item.writable : Item → Bool
  | .sizeCode | .entry _ _ => true
  | _ => false

end Sys2Proof.Machine
end

