-- ==== Sys2Proof/Machine/PoolOps.lean ====
section
/-! DEFINITION. The arithmetic and the stack checks of the pool operations, wherever they are
performed (08_pool_operations.md sections 8.4 and 8.5). -/
namespace Sys2Proof.Machine

/-- What an operation gives (R152 to R157): its status, its result words, and the words it writes, by
pool address. -/
structure OpResult where
  status : Status
  words : List Word
  writes : List (Nat × Word)
  deriving DecidableEq, Repr

/-- The test of a COND_STORE passes on the word at T (R152). -/
def testPasses (sense : Sense) (w : Word) : Bool :=
  match sense with
  | .zero => w = 0
  | .nonzero => w ≠ 0

/-- COND_STORE (R152), on the words that `rd` reads. -/
def condStoreResult (a t v : Word) (sense : Sense) (rd : Nat → Word) : OpResult :=
  let olds := [rd a.toNat, rd t.toNat]
  if testPasses sense (rd t.toNat) then { status := .ok, words := olds, writes := [(a.toNat, v)] }
  else { status := .condFalse, words := olds, writes := [] }

/-- The 64-bit product of an ACCUMULATE (R153). -/
def product (x y : Word) : Variant → BitVec 64
  | .addSigned | .subSigned => x.signExtend 64 * y.signExtend 64
  | .addUnsigned | .subUnsigned => x.zeroExtend 64 * y.zeroExtend 64

/-- The new pair of an ACCUMULATE, mod 2^64 (R153). -/
def accumulated (pair : BitVec 64) (x y : Word) (variant : Variant) : BitVec 64 :=
  match variant with
  | .addSigned | .addUnsigned => pair + product x y variant
  | .subSigned | .subUnsigned => pair - product x y variant

/-- ACCUMULATE (R153): the low word at P, the high word at P + 4. -/
def accumulateResult (p x y : Word) (variant : Variant) (rd : Nat → Word) : OpResult :=
  let new := accumulated (rd (p.toNat + 4) ++ rd p.toNat) x y variant
  let low := new.truncate 32
  let high := (new >>> 32).truncate 32
  { status := .ok, words := [low, high], writes := [(p.toNat, low), (p.toNat + 4, high)] }

/-- A word address may be stored to or taken from by a stack operation (R154, third check): inside the
window, and none of the descriptor's three words. -/
def stackPlace (e : WindowEntry) (d a : Nat) : Bool :=
  windowBase e ≤ a && a + 4 ≤ windowBase e + windowBytes e && a ≠ d && a ≠ d + 4 && a ≠ d + 8

/-- The first check of R154: the pointer is a multiple of 4 within its limits. -/
def pointerGood (ptr low high : Nat) : Bool := ptr % 4 = 0 && low ≤ ptr && ptr ≤ high

/-- The j-th word a PUSH stores, counting from 1 (R155). -/
def pushedWord (mark : Bool) (values : List Word) (ptr : Word) (j : Nat) : Word :=
  if mark then (if j = 1 then ptr else values.getD (j - 2) 0) else values.getD (j - 1) 0

/-- PUSH (R154, R155). -/
def pushResult (d : Word) (mark : Bool) (m : Nat) (values : List Word) (e : WindowEntry)
    (rd : Nat → Word) : OpResult :=
  let ptr := rd d.toNat
  let low := (rd (d.toNat + 4)).toNat
  let high := (rd (d.toNat + 8)).toNat
  let k := pushCount mark m
  let refused (st : Status) : OpResult := { status := st, words := [ptr], writes := [] }
  if !pointerGood ptr.toNat low high then refused .stackBad
  else if ptr.toNat - low < 4 * k then refused .stackLow
  else if !(List.range k).all (fun j => stackPlace e d.toNat (ptr.toNat - 4 * (j + 1))) then
    refused .stackBad
  else
    let new : Word := BitVec.ofNat 32 (ptr.toNat - 4 * k)
    { status := .ok, words := [new],
      writes := (List.range k).map (fun j =>
          (ptr.toNat - 4 * (j + 1), pushedWord mark values ptr (j + 1))) ++ [(d.toNat, new)] }

/-- POP (R154, R156). -/
def popResult (d : Word) (n : Nat) (e : WindowEntry) (rd : Nat → Word) : OpResult :=
  let ptr := rd d.toNat
  let low := (rd (d.toNat + 4)).toNat
  let high := (rd (d.toNat + 8)).toNat
  let refused (st : Status) : OpResult := { status := st, words := [ptr], writes := [] }
  if !pointerGood ptr.toNat low high then refused .stackBad
  else if high < ptr.toNat + 4 * n then refused .stackHigh
  else if !(List.range n).all (fun j => stackPlace e d.toNat (ptr.toNat + 4 * j)) then
    refused .stackBad
  else
    let new : Word := BitVec.ofNat 32 (ptr.toNat + 4 * n)
    { status := .ok, words := new :: (List.range n).map (fun j => rd (ptr.toNat + 4 * j)),
      writes := [(d.toNat, new)] }

/-- A pool operation in its window, on the words that `rd` reads by pool address (R152 to R156). -/
def opResult (op : PoolOp) (e : WindowEntry) (rd : Nat → Word) : OpResult :=
  match op with
  | .condStore a t v sense => condStoreResult a t v sense rd
  | .accumulate p x y variant => accumulateResult p x y variant rd
  | .push d mark m values => pushResult d mark m.toNat values e rd
  | .pop d n => popResult d n.toNat e rd

/-- LOST_DATA in place of OK or COND_FALSE where the data may have been lost (R157). -/
def lostStatus (lost : Bool) (st : Status) : Status :=
  if lost && (st = .ok || st = .condFalse) then .lostData else st

/-- An operation's words read from a copy of its line (R147). -/
def readCopy (l : Line) (a : Nat) : Word := lineWord l ((a % 64) / 4)

/-- An operation's words written into a copy of its line (R147). -/
def writeCopy (l : Line) (writes : List (Nat × Word)) : Line :=
  writes.foldl (fun l w =>
    lineOf fun i => if i = (w.1 % 64) / 4 then w.2 else lineWord l i) l

/-- An operation's words read from the home memory (R151). -/
def readHome (m : Memory) (e : WindowEntry) (a : Nat) : Word := readWord m (bankAddr e a)

/-- The bytes an operation stores in the home memory (R151). -/
def opCells (e : WindowEntry) (writes : List (Nat × Word)) : List Host.Cell :=
  writes.flatMap fun w => wordCells (bankAddr e w.1) w.2

end Sys2Proof.Machine
end

