-- ==== Sys2Proof/Machine/Flags.lean ====
section
/-! DEFINITION. Recency ranks, the flags and states of copy slots, the fields and marks of loan
entries, and the replies a tenure kind takes (R28, R61 to R66, R81, R121 to R123). -/
namespace Sys2Proof.Machine

/-- The slot a copy table number reads as where none is listed: as reset leaves it (R63). -/
def slotDefault (k : Nat) : Slot :=
  { line := 0, state := .void, dirty := false, lost := false, rank := Fin.ofNat 4 k, words := lineZero }

/-- The way a loan table number reads as where none is listed: as reset leaves it (R122). -/
def loanDefault (k : Nat) : LoanWay := { rank := Fin.ofNat 8 k, entry := none }

/-- The copy slot number k. -/
def State.slotAt (s : State) (k : Nat) : Slot := tableGet slotDefault k s.copy.slots

/-- The state with copy slot k replaced. -/
def State.setSlot (s : State) (k : Nat) (v : Slot) : State :=
  { s with copy := { s.copy with slots := tableSet slotDefault k v s.copy.slots } }

/-- The four slot numbers of a line's set (R61). -/
def slotsOf (l : LineAddr) : List Nat :=
  let set := l.toNat % 512
  [4 * set, 4 * set + 1, 4 * set + 2, 4 * set + 3]

/-- The four slot numbers of the set that slot k lies in. -/
def slotMates (k : Nat) : List Nat := [k / 4 * 4, k / 4 * 4 + 1, k / 4 * 4 + 2, k / 4 * 4 + 3]

/-- The slot that holds a line, or is reserved for it (R61). -/
def State.slotOf (s : State) (l : LineAddr) : Option Nat :=
  (slotsOf l).find? fun k => (s.slotAt k).state ≠ .void && (s.slotAt k).line = l

/-- Way k is refreshed (R62): rank 0, and the ranks below its old one raised by one. -/
def State.refreshSlot (s : State) (k : Nat) : State :=
  let old := (s.slotAt k).rank
  (slotMates k).foldl (fun s j =>
    let v := s.slotAt j
    if j = k then s.setSlot j { v with rank := 0 }
    else if v.rank < old then s.setSlot j { v with rank := v.rank + 1 }
    else s) s

/-- A slot made VOID: dirty and lost are clear, rank and words stay (R65, R66, R81). -/
def Slot.voided (v : Slot) : Slot := { v with state := .void, dirty := false, lost := false }

/-- A slot made READ: dirty is clear, lost stays (R65, R66). -/
def Slot.toRead (v : Slot) : Slot := { v with state := .read, dirty := false }

/-- The slot is in a transient state (section 4.2 of 04_the_copy_table.md). -/
def Slot.transient (v : Slot) : Bool :=
  v.state = .filling || v.state = .owning || v.state = .upgrading || v.state = .evicting

/-- A slot filled by DATA: READ for a FETCH, HELD otherwise (R81). LOST_DATA sets the lost flag; a FETCH_OWN's
DATA with OK leaves it as it was, so that a lost UPGRADING slot that R90 turned OWNING stays lost (R66; log
entry 30). -/
def Slot.filled (v : Slot) (own dirty lost : Bool) (words : Line) : Slot :=
  { v with state := if own then .held else .read, dirty := own && dirty, lost := lost || own && v.lost, words := words }

/-- A slot with the enabled bytes of a local write, dirty when it is HELD (R65, R69, R72). -/
def Slot.written (v : Slot) (new : Line) (enables : BitVec 64) : Slot :=
  { v with words := mergeLine v.words new enables, dirty := v.dirty || v.state = .held }

/-- The status a READ of the slot completes with (R66). -/
def Slot.status (v : Slot) : Status := if v.lost then .lostData else .ok

/-- The slot after its record closes without data (R81, R92): CONTENDED keeps a claimed copy READ and
an eviction HELD, HOME_ABSENT an eviction HELD; all else goes VOID. -/
def Slot.afterFailure (v : Slot) (kind : Kind) (st : Status) : Slot :=
  match kind with
  | .ret | .release => { v with state := .held }
  | .claim => if st = .contended then v.toRead else v.voided
  | _ => v.voided

/-- The position's reading for a kind (R28): silent, or a reply; what the kind does not take is NONE. -/
inductive Reply where
  | silent | noReply | copy | hold | retry | refuse
  deriving DecidableEq, Repr

/-- The code of a reply (11_formats.md section 11.1). -/
def replyCode : Reply → ReplyCode
  | .silent => 0 | .noReply => 1 | .copy => 2 | .hold => 3 | .retry => 4 | .refuse => 5

/-- The kinds of line tenures (R25). -/
def lineKind : Kind → Bool
  | .fetch | .fetchOwn | .claim | .readDirect | .writeThrough | .operate | .ret | .release
  | .recallRead | .recallAll => true
  | .data | .join | .ready | .leave | .unassigned => false

/-- The kinds that take COPY (R28). -/
def takesCopy : Kind → Bool
  | .fetch | .fetchOwn | .claim | .operate | .writeThrough | .recallRead | .recallAll => true
  | _ => false

/-- The kinds that take HOLD (R28). -/
def takesHold : Kind → Bool
  | .fetch | .fetchOwn | .operate | .writeThrough | .recallRead | .recallAll => true
  | _ => false

/-- A reply position as its tally is read (R28, R180). -/
def readReply (k : Kind) (c : ReplyCode) : Reply :=
  if c = 0 then .silent
  else if c = 2 && takesCopy k then .copy
  else if c = 3 && takesHold k then .hold
  else if c = 4 && lineKind k then .retry
  else if c = 5 && k = .join then .refuse
  else .noReply

/-- A tally as it is read for a kind. -/
structure Reading where
  kind : Kind
  tally : Tally

/-- What station p replied. -/
def Reading.at (r : Reading) (p : Station) : Reply := readReply r.kind r.tally[p]

/-- Station p is silent in the tally. -/
def Reading.silent (r : Reading) (p : Station) : Bool := r.at p = .silent

/-- Some position replies RETRY. -/
def Reading.hasRetry (r : Reading) : Bool := allStations.any fun p => r.at p = .retry

/-- The stations that replied HOLD, in ascending order. -/
def Reading.holders (r : Reading) : List Station := allStations.filter fun p => r.at p = .hold

/-- The single station that replied HOLD, when exactly one did (R35). -/
def Reading.holder (r : Reading) : Option Station :=
  match r.holders with
  | [x] => some x
  | _ => none

/-- The stations present in the tally (R31). -/
def Reading.presentSet (r : Reading) : StationSet := setWhere fun p => !r.silent p

/-- The stations that replied REFUSE. -/
def Reading.refusers (r : Reading) : StationSet := setWhere fun p => r.at p = .refuse

/-- The stations that replied NONE (R128). -/
def Reading.nones (r : Reading) : StationSet := setWhere fun p => r.at p = .noReply

/-- The loan way number k. -/
def State.loanWay (s : State) (k : Nat) : LoanWay := tableGet loanDefault k s.loans

/-- The state with loan way k replaced. -/
def State.setLoanWay (s : State) (k : Nat) (v : LoanWay) : State :=
  { s with loans := tableSet loanDefault k v s.loans }

/-- The eight way numbers of a home line index's set (R122). -/
def loanWays (index : Nat) : List Nat :=
  let set := index % 64
  [8 * set, 8 * set + 1, 8 * set + 2, 8 * set + 3, 8 * set + 4, 8 * set + 5, 8 * set + 6, 8 * set + 7]

/-- The way whose entry describes a home line (R122). -/
def State.loanKey (s : State) (index : Nat) : Option Nat :=
  (loanWays index).find? fun k =>
    match (s.loanWay k).entry with
    | some e => e.index = index
    | none => false

/-- The loan entry of a home line (R122). -/
def State.loanOf (s : State) (index : Nat) : Option LoanEntry :=
  match s.loanKey index with
  | some k => (s.loanWay k).entry
  | none => none

/-- The state with the line's loan entry changed by f, if it has one. -/
def State.updateLoan (s : State) (index : Nat) (f : LoanEntry → LoanEntry) : State :=
  match s.loanKey index with
  | some k =>
    match (s.loanWay k).entry with
    | some e => s.setLoanWay k { s.loanWay k with entry := some (f e) }
    | none => s
  | none => s

/-- Loan way k is refreshed (R122). -/
def State.refreshLoanWay (s : State) (k : Nat) : State :=
  let old := (s.loanWay k).rank
  ((List.range 8).map (k / 8 * 8 + ·)).foldl (fun s j =>
    let v := s.loanWay j
    if j = k then s.setLoanWay j { v with rank := 0 }
    else if v.rank < old then s.setLoanWay j { v with rank := v.rank + 1 }
    else s) s

/-- The way of a line's entry is refreshed, if there is one (R122, R140). -/
def State.refreshLoan (s : State) (index : Nat) : State :=
  match s.loanKey index with
  | some k => s.refreshLoanWay k
  | none => s

/-- A copy of the line may be abroad: the entry has holders or a held_by station (R123, R142). -/
def LoanEntry.lent (e : LoanEntry) : Bool := e.holders ≠ 0 || e.heldBy.isSome

/-- The line's entry is marked lost (R141). -/
def State.lineLost (s : State) (index : Nat) : Bool :=
  match s.loanOf index with
  | some e => e.lost
  | none => false

end Sys2Proof.Machine
end

