-- ==== Sys2Proof/Machine/Ops.lean ====
section
/-! DEFINITION. The shared operations over State: completions and the command stream, offers, the
fault record and the halt, the pending request table, the supply queue, the home queue, the bank, and
the closing of records. -/
namespace Sys2Proof.Machine

/-! ### The local port (R159 to R164) -/

/-- The entry of a tag (R159). -/
def State.entry (s : State) (t : Tag) : PortEntry := s.port.entries[t]

/-- The state with a tag's entry replaced. -/
def State.setEntry (s : State) (t : Tag) (e : PortEntry) : State :=
  { s with port := { s.port with entries := s.port.entries.set t e } }

/-- The open request of a tag. -/
def State.request (s : State) (t : Tag) : Option Request :=
  match s.entry t with
  | .opened r _ => some r
  | _ => none

/-- What the open request of a tag has reached. -/
def State.progress (s : State) (t : Tag) : Option Progress :=
  match s.entry t with
  | .opened _ p => some p
  | _ => none

/-- The open request of a tag reaches, or waits for, p. -/
def State.setProgress (s : State) (t : Tag) (p : Progress) : State :=
  match s.entry t with
  | .opened r _ => s.setEntry t (.opened r p)
  | _ => s

/-- A completion is made (R164): its entry becomes done and joins the end of the completion order. -/
def State.complete (s : State) (t : Tag) (st : Status) (ws : List Word) : State :=
  match s.entry t with
  | .opened _ _ =>
    { s with port := { s.port with
        entries := s.port.entries.set t (.done st ws),
        taken := s.port.taken.filter (· ≠ t),
        completions := s.port.completions ++ [t] } }
  | _ => s

/-- Several tags complete with one status and no words, in list order. -/
def State.completeAll (s : State) (ts : List Tag) (st : Status) : State :=
  ts.foldl (fun s t => s.complete t st []) s

/-- An entry whose request waits for a way of copy set i is due to be handled anew (R77). -/
def PortEntry.wayLeft (e : PortEntry) (i : Nat) : PortEntry :=
  match e with
  | .opened r (.setWay _) => if requestSet r = some i then .opened r (.setWay true) else e
  | _ => e

/-- Slot k has left its transient state: the requests that wait for a way of its set are due (R77). -/
def State.wayLeft (s : State) (k : Nat) : State :=
  { s with port := { s.port with entries := s.port.entries.map (·.wayLeft (k / 4)) } }

/-- The free entry of lowest number (R160). -/
def State.freeTag (s : State) : Option Tag := allTags.find? fun t => s.entry t = .free

/-- The completions of the command stream that may be made, in the order taken (R163): up to the
first member whose outcome is not decided. -/
def streamFlushFrom : List Tag → State → State
  | [], s => s
  | t :: ts, s =>
    match s.progress t with
    | some (.stream (some (st, ws))) => streamFlushFrom ts (s.complete t st ws)
    | some (.stream none) => s
    | _ => streamFlushFrom ts s

/-- The command stream makes the completions it may (R163). -/
def State.streamFlush (s : State) : State := streamFlushFrom s.port.taken s

/-- The outcome of a member of the command stream is decided (R163). -/
def State.decided (s : State) (t : Tag) (st : Status) (ws : List Word) : State :=
  (s.setProgress t (.stream (some (st, ws)))).streamFlush

/-- The tag of the outstanding command r (R163, R169). -/
def State.outstanding (s : State) (r : Request) : Option Tag :=
  s.port.taken.find? fun t => s.entry t = .opened r (.stream none)

/-- The completions that f makes join the completion order in the order their requests were taken
(R164). -/
def State.inTakenOrder (s : State) (f : State → State) : State :=
  let s' := f s
  let made := s'.port.completions.drop s.port.completions.length
  { s' with port := { s'.port with
      completions := s.port.completions ++ s.port.taken.filter (made.contains ·) } }

/-- A completion's words (11_formats.md section 11.2): tag, status code and count of result words, then the
result words. -/
def completionWords (t : Tag) (st : Status) (ws : List Word) : List Word :=
  BitVec.ofNat 32 (t.val + st.code.toNat * 256 + ws.length * 65536) :: ws

/-- The words of the completion that the port offers, if it offers one (R164). -/
def State.offered (s : State) : Option (List Word) :=
  match s.port.completions with
  | [] => none
  | t :: _ =>
    match s.entry t with
    | .done st ws => some (completionWords t st ws)
    | _ => none

/-! ### Offers (R21) -/

/-- An offer is made in this step. -/
def State.addOffer (s : State) (o : Offer) : State :=
  { s with bus := { s.bus with fresh := s.bus.fresh ++ [o] } }

/-- An offer is withdrawn, or has been published and closed. -/
def State.withdraw (s : State) (o : Offer) : State :=
  { s with bus := { s.bus with offers := s.bus.offers.filter (· ≠ o),
                               fresh := s.bus.fresh.filter (· ≠ o) } }

/-- The offers of a station set of READY targets, and others for which f holds, are withdrawn. -/
def State.withdrawWhere (s : State) (f : Offer → Bool) : State :=
  { s with bus := { s.bus with offers := s.bus.offers.filter (fun o => !f o),
                               fresh := s.bus.fresh.filter (fun o => !f o) } }

/-- The offers made in this step join the others (R21): records by record tag, lowest first, then
the membership controller's offers in the order made. -/
def State.settleOffers (s : State) : State :=
  let records := (allFour.map Offer.record).filter (s.bus.fresh.contains ·)
  let others := s.bus.fresh.filter fun o => match o with
    | .record _ => false
    | _ => true
  { s with bus := { s.bus with offers := s.bus.offers ++ records ++ others, fresh := [] } }

/-! ### The halt and the fault record (R171 to R175) -/

/-- What an open entry completes with at a halt (R171). -/
def haltOutcome : Option Progress → Status × List Word
  | some (.stream (some (st, ws))) => (st, ws)
  | _ => (.halted, [])

/-- Every open entry completes, in the order taken (R171). -/
def State.haltPort (s : State) : State :=
  s.port.taken.foldl (fun s t =>
    s.complete t (haltOutcome (s.progress t)).1 (haltOutcome (s.progress t)).2) s

/-- An access whose result will not be used (R119). -/
def Access.orphaned : Access → Access
  | .supplyRead _ ws => .supplyRead none ws
  | .localRead _ lost ws => .localRead none lost ws
  | .localStore _ => .localStore none

/-- The station halts (R175): every block gives up its part in one step. -/
def State.halt (s : State) : State :=
  let s := s.haltPort
  { s with
    state := .halted,
    bus := { s.bus with contention := none, offers := [], fresh := [] },
    members := { s.members with present := 0, awaited := 0, timer := false, ready := [] },
    positions := #v[.free, .free, .free, .free],
    copy := { slots := tableMap slotDefault (fun _ v => v.voided) s.copy.slots, walk := none },
    supply := .reset,
    loans := tableMap loanDefault (fun _ v => { v with entry := none }) s.loans,
    homeQueue := .reset,
    bank := { s.bank with run := none, held := [], inFlight := s.bank.inFlight.map .orphaned } }

/-- A fault notice is posted (R173): stored, or the third halts the station. In HALTED no block is
left to post one. -/
def State.post (s : State) (n : Notice) : State :=
  if s.state = .halted then s
  else if s.faults.length < 2 then { s with faults := s.faults ++ [n] }
  else s.halt

/-- The work of an event that comes after a notice that may have halted the station (R174). -/
def State.ifLive (s : State) (f : State → State) : State := if s.state = .halted then s else f s

/-- The ATTN output (R178). -/
def State.attn (s : State) : Bool := !s.faults.isEmpty || s.members.changed || s.state = .halted

/-! ### The pending request table (R82 to R84) -/

/-- The state with a position replaced. -/
def State.setPosition (s : State) (p : RecordTag) (v : Position) : State :=
  { s with positions := s.positions.set p v }

/-- The record in a position. -/
def State.recordAt (s : State) (p : RecordTag) : Option Record :=
  match s.positions[p] with
  | .holding r => some r
  | _ => none

/-- The record of a line, with its position (R84). -/
def State.recordOf (s : State) (l : LineAddr) : Option (RecordTag × Record) :=
  allFour.findSome? fun p =>
    match s.recordAt p with
    | some r => if r.line = l then some (p, r) else none
    | none => none

/-- The free position of lowest number (R84). -/
def State.freePosition (s : State) : Option RecordTag :=
  allFour.find? fun p => s.positions[p] = .free

/-- The free position of lowest number other than p. -/
def State.freePositionBut (s : State) (p : RecordTag) : Option RecordTag :=
  allFour.find? fun q => q ≠ p && s.positions[q] = .free

/-- The position held in reserve for the waiter w (R82). -/
def State.reservedFor (s : State) (w : Waiter) : Option RecordTag :=
  allFour.find? fun p => s.positions[p] = .reserved w

/-- A record as it is made (R84): in WAITING_BUS, retry count 0, no supplier, deadline stopped. -/
def newRecord (kind : Kind) (l : LineAddr) (slot : Option Nat) (tags : List Tag) (payload : Payload) :
    Record where
  kind := kind
  line := l
  slot := slot
  phase := .waitingBus
  retry := 0
  supplier := none
  deadline := false
  tags := tags
  payload := payload

/-- A record is made in position p and offered at once (R84). -/
def State.makeRecord (s : State) (p : RecordTag) (kind : Kind) (l : LineAddr) (slot : Option Nat)
    (tags : List Tag) (payload : Payload) : State :=
  (s.setPosition p (.holding (newRecord kind l slot tags payload))).addOffer (.record p)

/-- The record in position p, changed by f. -/
def State.updateRecord (s : State) (p : RecordTag) (f : Record → Record) : State :=
  match s.recordAt p with
  | some r => s.setPosition p (.holding (f r))
  | none => s

/-- The record in position p is gone and the position free; its offer is withdrawn (R102). -/
def State.freeRecord (s : State) (p : RecordTag) : State :=
  (s.setPosition p .free).withdraw (.record p)

/-! ### The supply queue (R115 to R118) -/

/-- The state with a supply entry replaced. -/
def State.setSupply (s : State) (e : Fin 4) (v : SupplyEntry) : State :=
  { s with supply := { s.supply with entries := s.supply.entries.set e v } }

/-- The free supply entry of lowest number (R116). -/
def State.freeSupply (s : State) : Option (Fin 4) :=
  allFour.find? fun e => s.supply.entries[e] = .free

/-- The reserved supply entry, if there is one: a tenure has at most one (R116). -/
def State.reservedSupply (s : State) : Option (Fin 4) :=
  allFour.find? fun e =>
    match s.supply.entries[e] with
    | .reserved .. => true
    | _ => false

/-- The reservation of the tenure under way is released (R116). -/
def State.releaseSupply (s : State) : State :=
  match s.reservedSupply with
  | some e => s.setSupply e .free
  | none => s

/-- An entry becomes ready (R115, R118). -/
def State.readySupply (s : State) (e : Fin 4) (d : Supply) : State :=
  { s with supply := { entries := s.supply.entries.set e (.ready d),
                       order := s.supply.order.filter (· ≠ e) ++ [e] } }

/-- An entry becomes free (R37). -/
def State.freeSupplyEntry (s : State) (e : Fin 4) : State :=
  { s with supply := { entries := s.supply.entries.set e .free,
                       order := s.supply.order.filter (· ≠ e) } }

/-! ### The home queue (R138) -/

/-- The eight numbers of the home queue. -/
def homeNumbers : List (Fin 8) := [0, 1, 2, 3, 4, 5, 6, 7]

/-- The line of a home queue entry. -/
def HomeEntry.line : HomeEntry → Option LineAddr
  | .free => none
  | .reserved _ l _ => some l
  | .operation l _ _ _ _ _ _ => some l
  | .request l _ _ => some l

/-- The free home queue entry of lowest number (the model's choice where R125 and R140 say a free one, log
entry 36). -/
def State.freeHome (s : State) : Option (Fin 8) :=
  homeNumbers.find? fun e => s.homeQueue.entries[e] = .free

/-- The home queue holds an entry of the line, reserved or in use (R138). -/
def State.homeHas (s : State) (l : LineAddr) : Bool :=
  homeNumbers.any fun e => s.homeQueue.entries[e].line = some l

/-- The head of a line: its earliest entry (R138). -/
def State.homeHead (s : State) (l : LineAddr) : Option (Fin 8) :=
  s.homeQueue.order.find? fun e => s.homeQueue.entries[e].line = some l

/-- An entry is replaced in place. -/
def State.setHome (s : State) (e : Fin 8) (v : HomeEntry) : State :=
  { s with homeQueue := { s.homeQueue with entries := s.homeQueue.entries.set e v } }

/-- An entry is made: it comes last in the order made (R138). -/
def State.takeHome (s : State) (e : Fin 8) (v : HomeEntry) : State :=
  { s with homeQueue := { entries := s.homeQueue.entries.set e v,
                          order := s.homeQueue.order.filter (· ≠ e) ++ [e] } }

/-- The home queue entry of a local tag. -/
def State.homeOf (s : State) (t : Tag) : Option (Fin 8) :=
  homeNumbers.find? fun e =>
    match s.homeQueue.entries[e] with
    | .request _ u _ => u = t
    | _ => false

/-- The loan entry of a home line is freed if nothing keeps it in existence (R121). -/
def State.freeIdle (s : State) (index : Nat) : State :=
  match s.loanKey index with
  | some k =>
    match (s.loanWay k).entry with
    | some e =>
      if e.holders = 0 && e.heldBy.isNone && e.owedBy.isNone && !e.lost && !e.busy && !s.homeHas e.line
      then s.setLoanWay k { s.loanWay k with entry := none } else s
    | none => s
  | none => s

/-- The same for a home line named by its line address. -/
def State.freeIdleLine (s : State) (l : LineAddr) : State :=
  match s.homedHere l with
  | some i => s.freeIdle i
  | none => s

/-- A home queue entry becomes free (R138). -/
def State.freeHomeEntry (s : State) (e : Fin 8) : State :=
  let l := s.homeQueue.entries[e].line
  let s := { s with homeQueue := { entries := s.homeQueue.entries.set e .free,
                                   order := s.homeQueue.order.filter (· ≠ e) } }
  match l with
  | some l => s.freeIdleLine l
  | none => s

/-- A local request at the home completes; its home queue entry, if it has one, becomes free (R138). -/
def State.completeHome (s : State) (t : Tag) (st : Status) (ws : List Word) : State :=
  let s' := s.complete t st ws
  match s.homeOf t with
  | some e => s'.freeHomeEntry e
  | none => s'

/-! ### The bank (R119, R151) -/

/-- An access becomes due. It is issued, or held while an operation run is under way (R151). A write
takes its place in memory when it is issued, a read its words (R119). -/
def State.issue (s : State) (d : Due) : State :=
  match s.bank.run with
  | some _ => { s with bank := { s.bank with held := s.bank.held ++ [d] } }
  | none =>
    match d with
    | .store cells => { s with bank := { s.bank with mem := writeCells s.bank.mem cells } }
    | .localStore t cells =>
      { s with bank := { s.bank with
          mem := writeCells s.bank.mem cells,
          inFlight := s.bank.inFlight ++ [.localStore (some t)] } }
    | .supplyRead e i =>
      { s with bank := { s.bank with
          inFlight := s.bank.inFlight ++ [.supplyRead (some e) (readLine s.bank.mem i)] } }
    | .localRead t i first n =>
      { s with bank := { s.bank with
          inFlight := s.bank.inFlight ++
            [.localRead (some t) (s.lineLost i) (sliceLine (readLine s.bank.mem i) first n)] } }
    | .operate r => { s with bank := { s.bank with run := some r } }

/-- The accesses held during a run are issued in order; a run among them holds back the rest (R151). -/
def State.issueHeld (s : State) : State :=
  s.bank.held.foldl State.issue { s with bank := { s.bank with held := [] } }

/-- An access that is due for nobody's result: a line write of a tenure (R130, R131, R134). -/
def Due.isStore : Due → Bool
  | .store _ => true
  | _ => false

/-- No result of the bank is used any more (R44, R53, R173; log entry 23): a run is given up, an access
under way is carried to its end for nobody, and of the accesses held the line writes alone are issued. -/
def State.dropAccesses (s : State) : State :=
  ({ s with bank := { s.bank with run := none, held := s.bank.held.filter Due.isStore,
                                  inFlight := s.bank.inFlight.map .orphaned } }).issueHeld

/-- Outside the pool (R39, R44, R51, R53): no record, reserve or fence, supply, home queue entry, flush
walk or ready entry. In JOINING and after a complete drain none stands, so this gives nothing up. -/
def State.vacate (s : State) : State :=
  { s with members := { s.members with ready := [] }, positions := #v[.free, .free, .free, .free],
           copy := { s.copy with walk := none }, supply := .reset, homeQueue := .reset }

/-! ### Closing records (R76, R81, R102) -/

/-- Step 5 of R74: the missing line takes way k with a record in position p, the request t as first
waiting tag; a READ fetches, a WRITE takes the line outright. The way is refreshed. -/
def State.fillWay (s : State) (t : Tag) (k : Nat) (p : RecordTag) : State :=
  match s.request t with
  | some r =>
    match requestAddress r with
    | some a =>
      let l := lineOfAddr a
      let own := requestChanges r
      let v := s.slotAt k
      let s := s.setSlot k { v with line := l, state := if own then .owning else .filling,
                                    dirty := false, lost := false }
      let s := s.makeRecord p (if own then .fetchOwn else .fetch) l (some k) [t] .none
      (s.setProgress t (.onRecord p)).refreshSlot k
    | none => s
  | none => s

/-- The position and the tag of the request that succeeds the eviction of way k (R76). -/
def State.successorOf (s : State) (k : Nat) : Option (RecordTag × Tag) :=
  allFour.findSome? fun p =>
    match s.positions[p] with
    | .reserved (.successor t j) => if j = k then some (p, t) else none
    | _ => none

/-- The successor of way k takes it when it is VOID; when it is HELD again the reserve is released
and the successor waits to be handled anew (R76). -/
def State.settleSuccessor (s : State) (k : Nat) : State :=
  match s.successorOf k with
  | some (q, t) =>
    if (s.slotAt k).state = .void then s.fillWay t k q
    else (s.setPosition q .free).setProgress t .line
  | none => s

/-- The ready list with f applied to every entry. -/
def State.mapReady (s : State) (f : ReadyEntry → ReadyEntry) : State :=
  { s with members := { s.members with ready := s.members.ready.map f } }

/-- The flush walk, if one runs, changed by f. -/
def State.mapWalk (s : State) (f : Walk → Walk) : State :=
  { s with copy := { s.copy with walk := s.copy.walk.map f } }

/-- The parties that wait on an eviction record are told that it closed (R102): the successor, the
ready list and the flush walk. -/
def State.evictionClosed (s : State) (p : RecordTag) (k : Nat) (contended : Bool) : State :=
  let s := s.settleSuccessor k
  let s := s.mapReady fun e => { e with owed := e.owed.filter (· ≠ p) }
  s.mapWalk fun w =>
    if w.records.contains p then
      { w with records := w.records.filter (· ≠ p), contended := w.contended || contended }
    else w

/-- The local request that waits for the recall of a line (R137). -/
def State.recallWaiter (s : State) (l : LineAddr) : Option Tag :=
  homeNumbers.findSome? fun e =>
    match s.homeQueue.entries[e] with
    | .request l' t .waitingRecall => if l' = l then some t else none
    | _ => none

/-- A recall record of the line closed (R136, R137): busy is cleared, and lost set where the outcome
asks it; the entry is freed if nothing keeps it. -/
def State.recallClosed (s : State) (l : LineAddr) (lost : Bool) : State :=
  match s.homedHere l with
  | some i =>
    (s.updateLoan i fun e => { e with busy := false, lost := e.lost || lost }).freeIdle i
  | none => s

/-- A recall record of the line ended CONTENDED (R137): the loan is as it was, and the local request
that waited on it completes CONTENDED. -/
def State.recallContended (s : State) (l : LineAddr) : State :=
  let s := match s.recallWaiter l with
    | some t => s.completeHome t .contended []
    | none => s
  s.recallClosed l false

/-- The slot of a record that closes without data (R81, R102, first). -/
def State.failSlot (s : State) (r : Record) (st : Status) : State :=
  match r.slot with
  | some k => (s.setSlot k ((s.slotAt k).afterFailure r.kind st)).wayLeft k
  | none => s

/-- The position of a record that closes without data (R102, third): free, or fenced by an expiry. -/
def State.failPosition (s : State) (p : RecordTag) (r : Record) (fence : Bool) : State :=
  match fence, r.supplier with
  | true, some x => (s.freeRecord p).setPosition p (.fenced r.line x)
  | _, _ => s.freeRecord p

/-- The parties that wait on a record that closed without data (R102, fourth). -/
def State.failParties (s : State) (p : RecordTag) (r : Record) (st : Status) : State :=
  match r.kind, r.slot with
  | .ret, some k | .release, some k => s.evictionClosed p k (st = .contended)
  | .recallRead, _ | .recallAll, _ =>
    if st = .contended then s.recallContended r.line else s.recallClosed r.line true
  | _, _ => s

/-- The record in position p closes without data, with a status (R92, R99, R56, R91, R95): slot, tags,
position, and the parties waiting on it (R102). An expiry fences the position (R99). -/
def State.failRecord (s : State) (p : RecordTag) (st : Status) (fence : Bool) : State :=
  match s.recordAt p with
  | none => s
  | some r =>
    (((s.failSlot r st).completeAll r.tags st).failPosition p r fence).failParties p r st

/-- An eviction record closes OK (R93, R113): its slot is VOID, its tags complete, and the parties
waiting on it are told. -/
def State.closeEviction (s : State) (p : RecordTag) : State :=
  match s.recordAt p with
  | none => s
  | some r =>
    match r.slot with
    | none => s
    | some k =>
      let s := (s.setSlot k (s.slotAt k).voided).wayLeft k
      let s := s.completeAll r.tags .ok
      (s.freeRecord p).evictionClosed p k false

/-- A record with one more retry, in WAITING_BUS without a supplier (R91, R101). -/
def Record.again (r : Record) : Record :=
  { r with retry := r.retry + 1, phase := .waitingBus, supplier := none, deadline := false }

/-- A record's tally without effect, or the loss of its supplier (R91, R92, R101): the retry count
goes up by one; at 32 the record closes CONTENDED, else it is offered anew. -/
def State.countRetry (s : State) (p : RecordTag) : State :=
  match s.recordAt p with
  | none => s
  | some r =>
    if r.retry + 1 ≥ Config.retryLimit then
      (s.updateRecord p fun r => { r with retry := r.retry + 1 }).failRecord p .contended false
    else
      ((s.updateRecord p Record.again).withdraw (.record p)).addOffer (.record p)

/-- The words a WRITE stores, at their places in its line, and their byte enables (R1, R181). -/
def requestPatch : Request → Line × BitVec 64
  | .write a n en ws =>
    let first := wordIndex a
    (lineOf fun i => if first ≤ i then ws.getD (i - first) 0 else 0,
      (en <<< (4 * first)) &&& wordEnables first n.toNat)
  | _ => (lineZero, 0)

/-- One waiting tag acts on a filled or claimed slot (R72): a WRITE is applied and completes OK, a
READ completes with the words as they then stand and the record's status. -/
def State.actTag (s : State) (k : Nat) (st : Status) (t : Tag) : State :=
  match s.request t with
  | some (.write a n en ws) =>
    let patch := requestPatch (.write a n en ws)
    (s.setSlot k ((s.slotAt k).written patch.1 patch.2)).complete t .ok []
  | some (.read a n) => s.complete t st (sliceLine (s.slotAt k).words (wordIndex a) n.toNat)
  | _ => s.complete t st []

/-- The waiting tags act on the slot one at a time, in list order (R72). -/
def State.actTags (s : State) (k : Nat) (st : Status) (ts : List Tag) : State :=
  ts.foldl (fun s t => s.actTag k st t) s

/-! ### Evictions (R46, R76, R78, R80) -/

/-- Slot k becomes EVICTING with a RETURN or RELEASE record in position p. On a joiner's return list
it leaves the list, and its record counts as owed (R46); it leaves the flush walk's list (R80). -/
def State.evict (s : State) (k : Nat) (p : RecordTag) (kind : Kind) (tags : List Tag) : State :=
  let v := s.slotAt k
  let s := s.setSlot k { v with state := .evicting }
  let s := s.makeRecord p kind v.line (some k) tags .none
  let s := s.mapReady fun e =>
    if e.listed.contains k then { e with listed := e.listed.filter (· ≠ k), owed := e.owed ++ [p] }
    else e
  s.mapWalk fun w => { w with slots := w.slots.filter (· ≠ k) }

/-- The kind of eviction a HELD slot asks for (R65): RETURN when dirty, RELEASE when clean. -/
def evictionKind (v : Slot) : Kind := if v.dirty then .ret else .release

/-! ### Standing conditions, at the end of a step -/

/-- The number of slots, HELD or EVICTING, whose home is absent (R50, R80). -/
def State.retained (s : State) : Nat :=
  (s.copy.slots.filter fun e =>
    (e.2.state = .held || e.2.state = .evicting) && !s.homePresent e.2.line).length

/-- The number of HELD slots of absent homes (R52). -/
def State.retainedHeld (s : State) : Nat :=
  (s.copy.slots.filter fun e => e.2.state = .held && !s.homePresent e.2.line).length

/-- A listed slot that has left HELD is off its list; so is a walk's slot whose home departed
(R46, R80). -/
def State.pruneLists (s : State) : State :=
  (s.mapReady fun e =>
      { e with listed := e.listed.filter fun k => (s.slotAt k).state = .held }).mapWalk fun w =>
    { w with slots := w.slots.filter fun k =>
        (s.slotAt k).state = .held && s.homePresent (s.slotAt k).line }

/-- A ready list entry with nothing listed and nothing owed gives a READY offer (R47). -/
def State.readyOffers (s : State) : State :=
  let isDone (e : ReadyEntry) : Bool := e.listed.isEmpty && e.owed.isEmpty
  let settled := s.members.ready.filter isDone
  let s := { s with members := { s.members with
      ready := s.members.ready.filter fun e => !isDone e } }
  settled.foldl (fun s e => s.addOffer (.ready e.joiner)) s

/-- The flush walk completes when its list is empty and no record of it is open (R80). -/
def State.walkCheck (s : State) : State :=
  match s.copy.walk with
  | some w =>
    if w.slots.isEmpty && w.records.isEmpty then
      let n := s.retained
      { s with copy := { s.copy with walk := none } }.complete w.tag
        (if w.contended then .contended else .ok) [BitVec.ofNat 32 n]
    else s
  | none => s

/-- Every READ slot becomes VOID. -/
def State.readsDropped (s : State) : State :=
  let dropRead (v : Slot) : Slot := if v.state = .read then v.voided else v
  { s with copy := { s.copy with slots := tableMap slotDefault (fun _ v => dropRead v) s.copy.slots } }

/-- In LEAVING a READ slot becomes VOID as soon as the reads that wait on it have completed (R51). -/
def State.drainReads (s : State) : State := if s.state = .leaving then s.readsDropped else s

/-- The parts of the LEAVING drain that need no tenure (R51): READ slots are voided, and lost entries
that are not busy freed, but for those the home queue keeps (log entry 13). -/
def State.drainSweep (s : State) : State :=
  if s.state = .leaving then
    let dropLost (v : LoanWay) : LoanWay := match v.entry with
      | some e => if e.lost && !e.busy && !s.homeHas e.line then { v with entry := none } else v
      | none => v
    { s.readsDropped with loans := tableMap loanDefault (fun _ v => dropLost v) s.loans }
  else s

/-- What every step ends with. -/
def State.settle (s : State) : State :=
  s.drainSweep.pruneLists.readyOffers.walkCheck.settleOffers

end Sys2Proof.Machine
end

