-- ==== Sys2Proof/Machine/CopyRoute.lean ====
section
/-! DEFINITION. The order of local requests, the grant order of pending positions, and local requests
on the copy route and off it, by record (04_the_copy_table.md, 05_requests_in_flight.md section 5.2,
08_pool_operations.md section 8.2). -/
namespace Sys2Proof.Machine

/-- The request has neither completed nor been placed on a record or in the home queue: it holds back
later requests on its line (R67, R84, R140). -/
def Progress.unplaced : Progress → Bool
  | .waitsMember | .line | .setWay _ | .position | .successor _ | .homeFull | .bank => true
  | .onRecord _ | .homeQueue | .walk | .walkWait | .stream _ => false

/-- The open requests taken before t, in the order taken. -/
def State.earlier (s : State) (t : Tag) : List Tag := s.port.taken.takeWhile (· ≠ t)

/-- The open requests taken after t, in the order taken. -/
def State.later (s : State) (t : Tag) : List Tag := (s.port.taken.dropWhile (· ≠ t)).drop 1

/-- An earlier request on the same line has neither completed nor been placed (R67, R84, R140). -/
def State.heldBack (s : State) (t : Tag) (l : LineAddr) : Bool :=
  (s.earlier t).any fun u =>
    match s.entry u with
    | .opened r p => p.unplaced && requestLine r = some l
    | _ => false

/-- The request was taken after the LEAVE command, and the station is LEAVING (R40). -/
def State.afterLeave (s : State) (t : Tag) : Bool :=
  s.state = .leaving &&
    match s.outstanding .leave with
    | some u => (s.later u).contains t
    | none => false

/-- An earlier request waits for a home queue entry (R140). -/
def State.homeFullAhead (s : State) (t : Tag) : Bool :=
  (s.earlier t).any fun u => s.progress u = some .homeFull

/-- A recall record of the line stands (R135). -/
def State.recallStands (s : State) (l : LineAddr) : Bool :=
  match s.recordOf l with
  | some (_, r) => r.kind = .recallRead || r.kind = .recallAll
  | none => false

/-- A queued request may be handled anew: it is the head of its line, and waits for no position and
for no recall that still stands (R137, R138, R140). -/
def State.queuedReady (s : State) (t : Tag) : Bool :=
  match s.homeOf t with
  | none => false
  | some e =>
    match s.homeQueue.entries[e] with
    | .request l _ c =>
      s.homeHead l = some e &&
        (c = .behind || (c = .waitingRecall && !s.recallStands l))
    | _ => false

/-- A queued request waits for a position for its recall (R135, R140). -/
def State.queuedWaits (s : State) (t : Tag) : Bool :=
  match s.homeOf t with
  | some e => match s.homeQueue.entries[e] with
    | .request _ _ .waitingPosition => true
    | _ => false
  | none => false

/-- The slots a flush walk starts with (R80): HELD, of present homes, in order of set and way. -/
def State.walkSlots (s : State) : List Nat :=
  (s.copy.slots.filter fun e => e.2.state = .held && s.homePresent e.2.line).map (·.1)

/-- The flush walk under way has a slot left to turn or a record open (R80). -/
def State.walkRuns (s : State) : Bool :=
  match s.copy.walk with
  | some w => !w.records.isEmpty || w.slots.any fun k => s.walkSlots.contains k
  | none => false

/-- An earlier FLUSH_ALL waits for the walk that runs. -/
def State.walkQueued (s : State) (t : Tag) : Bool :=
  (s.earlier t).any fun u => s.progress u = some .walkWait

/-- The FLUSH_ALL that waited for the walk of another is the next to start its own, which has slots to turn (R80). -/
def State.walkDue (s : State) (t : Tag) : Bool :=
  !s.walkRuns && !s.walkQueued t && !s.walkSlots.isEmpty

/-- The request waits for a pending position (R85): it, or its recall, or its flush walk, also the one it is now
to start; or it is held back on its line or in the home unit and due to be handled anew, and keeps its place in
the order by the time it was taken until it is (R102; log entry 1). -/
def State.wantsPosition (s : State) (t : Tag) : Bool :=
  match s.entry t with
  | .opened _ .position => true
  | .opened r .line =>
    match requestLine r with
    | some l => !s.heldBack t l && (s.recordOf l).isNone
    | none => false
  | .opened _ .homeFull => s.freeHome.isSome && !s.homeFullAhead t
  | .opened _ .homeQueue => s.queuedWaits t || s.queuedReady t
  | .opened _ .walk =>
    match s.copy.walk with
    | some w => w.tag = t && !w.slots.isEmpty
    | none => false
  | .opened _ .walkWait => s.walkDue t
  | _ => false

/-- A return owed to a joiner waits for a position (R85, first). -/
def State.returnWaits (s : State) : Bool := s.members.ready.any fun e => !e.listed.isEmpty

/-- A need ahead of request t in the grant order waits for a position (R85). No request still waits for MEMBER
here: those are taken up within the step that makes the station MEMBER (R40; log entry 1). -/
def State.needAhead (s : State) (t : Tag) : Bool :=
  s.returnWaits || (s.earlier t).any s.wantsPosition

/-- The position that request t may have: the one it holds in reserve, else the free one of lowest
number when no need is ahead of it (R84, R85). -/
def State.positionFor (s : State) (t : Tag) : Option RecordTag :=
  match s.reservedFor (.head t) with
  | some p => some p
  | none => if s.needAhead t then none else s.freePosition

/-- A request that needs one position: it acts in it, or completes NOT_MEMBER (R40), or waits in the
grant order (R85). -/
def State.withPosition (s : State) (t : Tag) (f : RecordTag → State) : State :=
  if s.afterLeave t then s.complete t .notMember []
  else match s.positionFor t with
    | some p => f p
    | none => s.setProgress t .position

/-- The reserve of a request that no longer waits for a position is released (R85). -/
def State.releaseReserve (s : State) (t : Tag) : State :=
  match s.reservedFor (.head t) with
  | some p => if s.progress t = some .position then s else s.setPosition p .free
  | none => s

/-- The request is placed at the end of a record's list of waiting tags (R71). -/
def State.merge (s : State) (t : Tag) (p : RecordTag) : State :=
  (s.updateRecord p fun r => { r with tags := r.tags ++ [t] }).setProgress t (.onRecord p)

/-- The ways of a list that are eligible as victims (R75). -/
def State.eligible (s : State) (k : Nat) : Bool :=
  match (s.slotAt k).state with
  | .void | .read => true
  | .held => s.homePresent (s.slotAt k).line
  | .filling | .owning | .upgrading | .evicting => false

/-- The victim of a set: the VOID way of lowest number, else the eligible way of highest rank (R75). -/
def State.victim (s : State) (ways : List Nat) : Option Nat :=
  match ways.find? fun k => (s.slotAt k).state = .void with
  | some k => some k
  | none => (ways.filter s.eligible).foldl (fun best k =>
      match best with
      | none => some k
      | some b => if (s.slotAt b).rank < (s.slotAt k).rank then some k else some b) none

/-- An earlier request of the same set is due to be handled anew, a way of the set having left its
transient state: it is handled first (R77; log entry 1). One that still waits for a way to leave holds
back nobody. -/
def State.setQueued (s : State) (t : Tag) (l : LineAddr) : Bool :=
  (s.earlier t).any fun u =>
    match s.entry u with
    | .opened r (.setWay true) => requestSet r = some (l.toNat % 512)
    | _ => false

/-- The eviction of a HELD victim for a miss (R76): the victim's record in position p, the position q
in reserve for the miss, which waits for the way. -/
def State.evictFor (s : State) (t : Tag) (k : Nat) (p q : RecordTag) : State :=
  let s := s.evict k p (evictionKind (s.slotAt k)) []
  (s.setPosition q (.reserved (.successor t k))).setProgress t (.successor k)

/-- A miss whose victim is HELD (R74, R76, R85): two positions, or one kept as a reserve, or none. -/
def State.missHeld (s : State) (t : Tag) (k : Nat) : State :=
  match s.reservedFor (.head t) with
  | some q =>
    match (if s.needAhead t then none else s.freePosition) with
    | some p => s.evictFor t k p q
    | none => s.setProgress t .position
  | none =>
    match (if s.needAhead t then none else s.freePosition) with
    | none => s.setProgress t .position
    | some p =>
      match s.freePositionBut p with
      | some q => s.evictFor t k p q
      | none => (s.setPosition p (.reserved (.head t))).setProgress t .position

/-- A READ or WRITE that misses allocates a way (R74 to R76). With no way eligible it waits until a way
of its set leaves its transient state, or completes NO_SLOT (R77). -/
def State.miss (s : State) (t : Tag) (l : LineAddr) : State :=
  if s.afterLeave t then s.complete t .notMember []
  else if s.setQueued t l then s.setProgress t (.setWay true)
  else match s.victim (slotsOf l) with
    | none =>
      if (slotsOf l).any fun k => (s.slotAt k).transient then s.setProgress t (.setWay false)
      else s.complete t .noSlot []
    | some k =>
      if (s.slotAt k).state = .held then s.missHeld t k
      else match s.positionFor t with
        | some p => s.fillWay t k p
        | none => s.setProgress t .position

/-- A record of the line that names no slot holds back the copy route (R68, R84). -/
def State.slotlessRecord (s : State) (l : LineAddr) : Bool :=
  match s.recordOf l with
  | some (_, r) => r.slot.isNone
  | none => false

/-- A READ that hits a slot (R66, R68). -/
def State.readHit (s : State) (t : Tag) (k : Nat) (a : Word) (n : Nat) : State :=
  (s.refreshSlot k).complete t (s.slotAt k).status (sliceLine (s.slotAt k).words (wordIndex a) n)

/-- A request merges onto the record of its line, and its way is refreshed (R71). -/
def State.mergeLineRecord (s : State) (t : Tag) (l : LineAddr) (k : Nat) : State :=
  match s.recordOf l with
  | some (p, _) => (s.merge t p).refreshSlot k
  | none => s.setProgress t .line

/-- A READ on the copy route (R68). -/
def State.copyRead (s : State) (t : Tag) (l : LineAddr) (a : Word) (n : Nat) : State :=
  if s.slotlessRecord l then s.setProgress t .line
  else match s.slotOf l with
    | none => s.miss t l
    | some k =>
      match (s.slotAt k).state with
      | .read | .held => s.readHit t k a n
      | .evicting =>
        match s.recordOf l with
        | some (_, r) => if r.tags.isEmpty then s.readHit t k a n else s.setProgress t .line
        | none => s.readHit t k a n
      | .filling | .owning | .upgrading => s.mergeLineRecord t l k
      | .void => s.miss t l

/-- A WRITE that hits a HELD slot (R65, R69). -/
def State.writeHit (s : State) (t : Tag) (k : Nat) (r : Request) : State :=
  let patch := requestPatch r
  ((s.setSlot k ((s.slotAt k).written patch.1 patch.2)).refreshSlot k).complete t .ok []

/-- A WRITE in a COHERENT_WB window on the copy route (R69). -/
def State.copyWrite (s : State) (t : Tag) (l : LineAddr) (r : Request) : State :=
  if s.slotlessRecord l then s.setProgress t .line
  else match s.slotOf l with
    | none => s.miss t l
    | some k =>
      match (s.slotAt k).state with
      | .held => s.writeHit t k r
      | .read => s.withPosition t fun p =>
          let s := s.setSlot k { s.slotAt k with state := .upgrading }
          let s := s.makeRecord p .claim l (some k) [t] .none
          (s.setProgress t (.onRecord p)).refreshSlot k
      | .owning | .upgrading => s.mergeLineRecord t l k
      | .filling | .evicting => s.setProgress t .line
      | .void => s.miss t l

/-- A record made for one local request, without a slot (R86, R87): when no record of the line
stands. -/
def State.slotless (s : State) (t : Tag) (l : LineAddr) (kind : Kind) (payload : Payload) : State :=
  match s.recordOf l with
  | some _ => s.setProgress t .line
  | none => s.withPosition t fun p =>
      (s.makeRecord p kind l none [t] payload).setProgress t (.onRecord p)

/-- The payload of a WRITE_THROUGH record (R84, R86): the mask names the words of the WRITE. -/
def writePayload (r : Request) : Payload :=
  match r with
  | .write a n _ _ =>
    let patch := requestPatch r
    .writeThrough (BitVec.ofNat 16 ((2 ^ n.toNat - 1) * 2 ^ wordIndex a)) patch.2 patch.1
  | _ => .none

/-- A pool operation performed on the HELD copy (R147). -/
def State.operateCopy (s : State) (t : Tag) (k : Nat) (op : PoolOp) (e : WindowEntry) : State :=
  let v := s.slotAt k
  let res := opResult op e (readCopy v.words)
  let s := s.setSlot k { v with words := writeCopy v.words res.writes,
                                dirty := v.dirty || !res.writes.isEmpty }
  (s.refreshSlot k).complete t (lostStatus v.lost res.status) res.words

/-- A pool operation on the copy route (R146). -/
def State.copyOperation (s : State) (t : Tag) (l : LineAddr) (op : PoolOp) (e : WindowEntry) : State :=
  if s.slotlessRecord l then s.setProgress t .line
  else match s.slotOf l with
    | none => s.slotless t l .operate (.operate (opOperation op))
    | some k =>
      match (s.slotAt k).state with
      | .held => s.operateCopy t k op e
      | .void | .read => s.slotless t l .operate (.operate (opOperation op))
      | .evicting | .filling | .owning | .upgrading => s.setProgress t .line

/-- A FLUSH_LINE or DISCARD_LINE that evicts a HELD slot of a present home (R78, R79). -/
def State.evictLine (s : State) (t : Tag) (k : Nat) (kind : Kind) : State :=
  s.withPosition t fun p => (s.evict k p kind [t]).setProgress t (.onRecord p)

/-- FLUSH_LINE and DISCARD_LINE on the copy route (R78, R79). -/
def State.copyMaintain (s : State) (t : Tag) (l : LineAddr) (discard : Bool) : State :=
  if s.slotlessRecord l then s.setProgress t .line
  else match s.slotOf l with
    | none => s.complete t .ok []
    | some k =>
      let v := s.slotAt k
      match v.state with
      | .void => s.complete t .ok []
      | .read => (s.setSlot k v.voided).complete t .ok []
      | .held =>
        if s.homePresent l then s.evictLine t k (if discard then .release else evictionKind v)
        else if discard then (s.setSlot k v.voided).complete t .ok []
        else s.complete t .homeAbsent []
      | .evicting =>
        match s.recordOf l with
        | some (p, _) => s.merge t p
        | none => s.setProgress t .line
      | .filling | .owning | .upgrading => s.setProgress t .line

end Sys2Proof.Machine
end

