-- ==== Sys2Proof/Machine/HomePath.lean ====
section
/-! DEFINITION. Local requests on home lines and PRIVATE lines (07_the_home.md section 7.8, R120,
R150). -/
namespace Sys2Proof.Machine

/-- The recall a local request on a home line needs (R135, R141 to R143). -/
def recallNeed (e : Option LoanEntry) (r : Request) : Option Kind :=
  match e with
  | none => none
  | some e =>
    match r with
    | .read _ _ => if e.heldBy.isSome then some .recallRead else none
    | .write .. | .operation _ => if e.lent then some .recallAll else none
    | .repairLine _ => if e.lost && e.lent then some .recallAll else none
    | _ => none

/-- The access of a request at the bank (R119, R141, R142, R151). -/
def State.actBank (s : State) (t : Tag) (r : Request) (res : Resolved) : State :=
  match r with
  | .read a n => s.issue (.localRead t res.index (wordIndex a) n.toNat)
  | .write _ _ _ _ =>
    let patch := requestPatch r
    s.issue (.localStore t (lineCells res.index patch.1 patch.2))
  | .operation op =>
    s.issue (.operate { owner := .request t, op := op, line := res.line,
                        lost := s.lineLost res.index, refusal := none })
  | _ => s

/-- A WRITE that enables all 64 bytes of its line (R142). -/
def requestWholeLine (r : Request) : Bool :=
  match r with
  | .write .. => (requestPatch r).2 = allBytes
  | _ => false

/-- A request on a home line acts (R140 to R143): its access is issued and the line's way refreshed; a
WRITE of all 64 bytes clears the lost mark; REPAIR_LINE clears it and completes. -/
def State.actHome (s : State) (t : Tag) (r : Request) (res : Resolved) : State :=
  match r with
  | .repairLine _ =>
    ((s.updateLoan res.index fun e => { e with lost := false }).freeIdle res.index).completeHome t .ok []
  | _ =>
    let s := match s.homeOf t with
      | some e => s.setHome e (.request res.line t .acting)
      | none => s.setProgress t .bank
    let s := (s.actBank t r res).refreshLoan res.index
    if requestWholeLine r then
      (s.updateLoan res.index fun e => { e with lost := false }).freeIdle res.index
    else s

/-- The recall of a home line is made in position p (R135): the entry is busy. -/
def State.makeRecall (s : State) (p : RecordTag) (kind : Kind) (l : LineAddr) (index : Nat)
    (payload : Payload) : State :=
  (s.makeRecord p kind l none [] payload).updateLoan index fun e => { e with busy := true }

/-- A request that is its line's head in home queue entry e waits for its recall (R140, case 2): it
joins the one that stands, makes one, or waits for a position. -/
def State.awaitRecall (s : State) (t : Tag) (e : Fin 8) (kind : Kind) (res : Resolved) : State :=
  let s := s.setProgress t .homeQueue
  if s.recallStands res.line then s.setHome e (.request res.line t .waitingRecall)
  else match s.positionFor t with
    | some p =>
      (s.setHome e (.request res.line t .waitingRecall)).makeRecall p kind res.line res.index .none
    | none => s.setHome e (.request res.line t .waitingPosition)

/-- The home queue entry a request may take: a free one, when no earlier request waits for one. -/
def State.homeFor (s : State) (t : Tag) : Option (Fin 8) :=
  if s.homeFullAhead t then none else s.freeHome

/-- A local request on a home line is handled (R140): the first case that applies. A request on a
line whose recall record stands waits on it, whatever its kind (R84, R135; log entry 12). -/
def State.handleHome (s : State) (t : Tag) (r : Request) (res : Resolved) : State :=
  let own := s.homeOf t
  if own.isNone && s.homeHas res.line then
    match s.homeFor t with
    | some e => (s.takeHome e (.request res.line t .behind)).setProgress t .homeQueue
    | none => s.setProgress t .homeFull
  else
    let need := recallNeed (s.loanOf res.index) r
    if need.isSome && s.afterLeave t then s.completeHome t .notMember []
    else if need.isSome || s.recallStands res.line then
      match own with
      | some e => s.awaitRecall t e (need.getD .recallAll) res
      | none =>
        match s.homeFor t with
        | some e =>
          (s.takeHome e (.request res.line t .waitingPosition)).awaitRecall t e
            (need.getD .recallAll) res
        | none => s.setProgress t .homeFull
    else s.actHome t r res

/-- A local request on a PRIVATE line acts at once, whatever else is under way (R120); maintenance
requests have nothing to act on (R10). -/
def State.handlePrivate (s : State) (t : Tag) (r : Request) (res : Resolved) : State :=
  match r with
  | .read .. | .write .. | .operation _ => (s.setProgress t .bank).actBank t r res
  | _ => s.complete t .ok []

end Sys2Proof.Machine
end

