-- ==== Sys2Proof/Machine/Requests.lean ====
section
/-! DEFINITION. Routes, the grant of pending positions, the dispatch of requests at the port, the
command stream, and requests handled anew (R10, R40, R85, R160 to R170). -/
namespace Sys2Proof.Machine

/-- A request on its route, in MEMBER or LEAVING (R10). -/
def State.route (s : State) (t : Tag) (r : Request) (res : Resolved) : State :=
  let l := res.line
  let cached := res.entry.mode = .coherentWT || res.entry.mode = .coherentWB
  match r with
  | .flushLine _ =>
    if res.here || !cached then s.complete t .ok []
    else if s.heldBack t l then s.setProgress t .line else s.copyMaintain t l false
  | .discardLine _ =>
    if res.here || !cached then s.complete t .ok []
    else if s.heldBack t l then s.setProgress t .line else s.copyMaintain t l true
  | .repairLine _ =>
    if !res.here then s.complete t .unsupported []
    else if s.heldBack t l then s.setProgress t .line else s.handleHome t r res
  | .read a n =>
    if s.heldBack t l then s.setProgress t .line
    else if res.here then s.handleHome t r res
    else if cached then s.copyRead t l a n.toNat
    else s.slotless t l .readDirect (.words (BitVec.ofNat 4 (wordIndex a)) n)
  | .write .. =>
    if s.heldBack t l then s.setProgress t .line
    else if res.here then s.handleHome t r res
    else if res.entry.mode = .coherentWB then s.copyWrite t l r
    else s.slotless t l .writeThrough (writePayload r)
  | .operation op =>
    if s.heldBack t l then s.setProgress t .line
    else if res.here then s.handleHome t r res
    else if cached then s.copyOperation t l op res.entry
    else s.slotless t l .operate (.operate (opOperation op))
  | _ => s

/-- A request that passed its window checks, judged by the station state (R40). -/
def State.judge (s : State) (t : Tag) (r : Request) (res : Resolved) : State :=
  if res.entry.mode = .priv then s.handlePrivate t r res
  else match s.state with
    | .joining | .settling => s.setProgress t .waitsMember
    | .member | .leaving => (s.route t r res).releaseReserve t
    | .unjoined => s.complete t .notMember []
    | .halted => s.complete t .halted []

/-- An open request handled anew: its route is the one it was given (R11). -/
def State.handle (s : State) (t : Tag) : State :=
  match s.request t with
  | some r =>
    match requestAddress r with
    | some a =>
      match s.resolve a.toNat with
      | some res => s.judge t r res
      | none => s
    | none => s
  | none => s

/-- A queued request on a home line handled anew as the head of its line (R140). -/
def State.handleQueued (s : State) (t : Tag) : State :=
  match s.request t with
  | some r =>
    match requestAddress r with
    | some a =>
      match s.resolve a.toNat with
      | some res => s.handleHome t r res
      | none => s
    | none => s
  | none => s

/-! ### Work taken up inside a step (R40, R48, R76, R102, R126, R137) -/

/-- The request stands in the home queue for one of the lines. -/
def State.queuedOn (s : State) (lines : List LineAddr) (t : Tag) : Bool :=
  match s.homeOf t with
  | some e =>
    match s.homeQueue.entries[e].line with
    | some l => lines.contains l
    | none => false
  | none => false

/-- A party that waits on a line whose record has closed is told, with tag t (R102): at the head of the line in
the home queue it is handled anew (R137, R140), and held back on the line it is handled (R67). One that something
else still holds back stays as it is. -/
def State.takeUp (s : State) (lines : List LineAddr) (t : Tag) : State :=
  if s.queuedOn lines t && s.queuedReady t then s.handleQueued t
  else match s.entry t with
    | .opened r .line =>
      match requestLine r with
      | some l => if lines.contains l then s.handle t else s
      | none => s
    | _ => s

/-- Records of the lines have closed: the parties that wait on them are told, in the order their requests were
taken, whichever line each waits on (R85, R102, R137). -/
def State.takeUpLines (s : State) (lines : List LineAddr) : State :=
  s.port.taken.foldl (fun s t => s.takeUp lines t) s

/-- The line of the request that succeeds an eviction record in its slot (R76). -/
def State.successorLine (s : State) (r : Record) : Option LineAddr :=
  match r.kind, r.slot.bind s.successorOf with
  | .ret, some (_, t) | .release, some (_, t) => (s.request t).bind requestLine
  | _, _ => none

/-- The lines on which work is to be taken up once s has become u: those whose record has closed, each with
the line of the request that waited for the record's slot (R76, R102). -/
def State.closedLines (s u : State) : List LineAddr :=
  allFour.flatMap fun p =>
    match s.recordAt p with
    | some r => if (u.recordOf r.line).isSome then [] else r.line :: (s.successorLine r).toList
    | none => []

/-- The station takes up requests that were held back (R40). -/
def State.takesUp (s : State) : Bool := s.state = .member || s.state = .leaving

/-- The parties that wait on the records that closed on the way from s to u are told (R102, fourth; R80): the
requests held back, those in the home queue, the flush walk. In LEAVING they find no slot READ (R51). A walk that
has nothing left counts the retained slots, and ends, after those requests have acted (the model's choice where
R80 and R102 give no order, log entry 40). The completions join in the order the requests were taken (R164). -/
def State.tellParties (s u : State) : State :=
  if u.takesUp && s.closedLines u ≠ [] then
    u.inTakenOrder fun u => (u.drainReads.pruneLists.takeUpLines (s.closedLines u)).pruneLists.walkCheck
  else u

/-- What f does, in which records may close: the parties that wait on them are told in the same step
(R102). -/
def State.closing (s : State) (f : State → State) : State := s.tellParties (f s)

/-- The station is MEMBER: the requests that waited for it are taken up, in the order they were taken (R40,
R48). -/
def State.takeUpWaiting (s : State) : State :=
  s.port.taken.foldl (fun s t => if s.progress t = some .waitsMember then s.handle t else s) s

/-! ### Positions (R85) -/

/-- The flush walk turns the first slot of its list in position p (R80). -/
def State.turnWalk (s : State) (p : RecordTag) : State :=
  match s.copy.walk with
  | some w =>
    match w.slots with
    | k :: _ =>
      (s.evict k p (evictionKind (s.slotAt k)) []).mapWalk fun w => { w with records := w.records ++ [p] }
    | [] => s
  | none => s

/-- The flush walk of FLUSH_ALL t, with its list of slots (R80). -/
def State.beginWalk (s : State) (t : Tag) : State :=
  let w : Walk := { tag := t, slots := s.walkSlots, records := [], contended := false }
  { s with copy := { s.copy with walk := some w } }.setProgress t .walk

/-- The position is handed to a local request, which is handled anew (R85); a FLUSH_ALL that waited for the walk
of another starts its own and turns its first slot there (R80). -/
def State.grantRequest (s : State) (t : Tag) (p : RecordTag) : State :=
  if s.progress t = some .walkWait then
    if s.copy.walk.isSome then s else (s.beginWalk t).turnWalk p
  else match s.progress t with
  | some .walk => s.turnWalk p
  | some .homeQueue => s.handleQueued t
  | _ => s.handle t

/-- The next slot the drain of LEAVING turns (R51). -/
def State.drainSlot (s : State) : Option Nat :=
  (s.copy.slots.find? fun e => e.2.state = .held && s.homePresent e.2.line).map (·.1)

/-- The next loan entry the drain of LEAVING recalls (R51): not lost and not busy. -/
def State.drainLoan (s : State) : Option LoanEntry :=
  s.loans.findSome? fun w =>
    match w.2.entry with
    | some e => if e.lost || e.busy then none else some e
    | none => none

/-- The position is used by the drain (R51, R85). -/
def State.grantDrain (s : State) (p : RecordTag) : State :=
  match s.drainSlot with
  | some k => s.evict k p (evictionKind (s.slotAt k)) []
  | none =>
    match s.drainLoan with
    | some e => s.makeRecall p .recallAll e.line e.index .none
    | none => s

/-- The free position of lowest number is handed to the head of the grant order (R85). -/
def State.grantOne (s : State) : State :=
  match s.freePosition with
  | none => s
  | some p =>
    match s.members.ready.findSome? fun e => e.listed.head? with
    | some k => s.evict k p .ret []
    | none =>
      match s.port.taken.find? s.wantsPosition with
      | some t => s.grantRequest t p
      | none => if s.state = .leaving then s.grantDrain p else s

/-- Positions already free are handed on (R46, R51, R80): at most four can be, and each of the at most eight
requests that need none when handled anew passes its position on (R85). -/
@[irreducible] def State.grantAll (s : State) : State := (List.range 12).foldl (fun s _ => s.grantOne) s

/-- Positions already free are handed on inside a step, and a flush walk that this leaves nothing to turn
ends in it: the completions join in the order their requests were taken (R164). -/
def State.grantStep (s : State) : State :=
  s.inTakenOrder fun s => s.grantAll.pruneLists.walkCheck

/-! ### FLUSH_ALL (R80) -/

/-- The flush walk of FLUSH_ALL t starts, and the positions already free are handed on (R80). -/
def State.startWalk (s : State) (t : Tag) : State := (s.beginWalk t).grantStep

/-- FLUSH_ALL is handled (R80): it starts its walk, or waits for the one that runs. -/
def State.handleFlushAll (s : State) (t : Tag) : State :=
  if s.copy.walk.isSome || s.walkQueued t then s.setProgress t .walkWait else s.startWalk t

/-! ### Dispatch (R162) -/

/-- A pool request is dispatched at its taking (R162). -/
def State.dispatchPool (s : State) (t : Tag) (r : Request) (a : Word) : State :=
  if s.state = .halted then s.complete t .halted []
  else if !s.decoder.frozen then s.complete t .notMember []
  else match s.windowCheck r a with
    | .error st => s.complete t st []
    | .ok res => s.judge t r res

/-- FLUSH_ALL is dispatched at its taking (R162). -/
def State.dispatchFlushAll (s : State) (t : Tag) : State :=
  match s.state with
  | .halted => s.complete t .halted []
  | .unjoined => s.complete t .notMember []
  | .joining | .settling => s.complete t .ok [0]
  | .leaving => if s.afterLeave t then s.complete t .notMember [] else s.handleFlushAll t
  | .member => s.handleFlushAll t

/-- APERTURE_WRITE (R168). -/
def State.doApertureWrite (s : State) (t : Tag) (offset w : Word) : State :=
  if s.state = .halted then s.decided t .halted []
  else if !(itemAt offset).writable then s.decided t .ok []
  else if s.state = .unjoined then (s.apertureWritten offset w).decided t .ok []
  else s.decided t .locked []

/-- The JOIN command (R43, R169). -/
def State.doJoin (s : State) (t : Tag) : State :=
  match s.state with
  | .halted => s.decided t .halted []
  | .unjoined =>
    match failingWindow s.number s.decoder.sizeCode s.decoder.table with
    | some i => s.decided t .configInvalid [BitVec.ofNat 32 i]
    | none =>
      ({ s with state := .joining, decoder := { s.decoder with frozen := true } }).addOffer .join
  | .joining | .settling | .member | .leaving => s.decided t .locked []

/-- The LEAVE command (R50, R51, R169). -/
def State.doLeave (s : State) (t : Tag) : State :=
  match s.state with
  | .halted => s.decided t .halted []
  | .member =>
    if s.retained = 0 then ({ s with state := .leaving }).drainSweep.grantStep
    else s.decided t .retainedLines [BitVec.ofNat 32 s.retained]
  | .unjoined | .joining | .settling | .leaving => s.decided t .notMember []

/-- ACK_FAULT (R170, R177). -/
def State.doAckFault (s : State) (t : Tag) : State :=
  if s.state = .halted then s.decided t .halted []
  else ({ s with faults := [] }).decided t .ok []

/-- ACK_MEMBERSHIP (R59, R170). -/
def State.doAckMembership (s : State) (t : Tag) : State :=
  if s.state = .halted then s.decided t .halted []
  else ({ s with members := { s.members with changed := false } }).decided t .ok []

/-- A request just taken is dispatched by its kind (R160, R162, R163). -/
def State.dispatch (s : State) (t : Tag) (r : Request) : State :=
  match r with
  | .read a _ | .write a _ _ _ | .flushLine a | .discardLine a | .repairLine a =>
    s.dispatchPool t r a
  | .operation op => s.dispatchPool t r (opAddress op)
  | .flushAll => s.dispatchFlushAll t
  | .apertureRead offset => s.decided t .ok [s.apertureWord offset]
  | .apertureWrite offset w => s.doApertureWrite t offset w
  | .join => s.doJoin t
  | .leave => s.doLeave t
  | .ackFault => s.doAckFault t
  | .ackMembership => s.doAckMembership t
  | .unknown _ => s.complete t (if s.state = .halted then .halted else .unsupported) []

/-- Where a request stands at its taking: the command stream, or its line. -/
def startProgress : Request → Progress
  | .apertureRead _ | .apertureWrite _ _ | .join | .leave | .ackFault | .ackMembership => .stream none
  | _ => .line

/-- The request is taken with tag t (R160): its entry is open, last in the order of taking. -/
def State.opened (s : State) (t : Tag) (r : Request) : State :=
  { s with port := { s.port with entries := s.port.entries.set t (.opened r (startProgress r)),
                                 taken := s.port.taken ++ [t] } }

/-- A request is presented at the port (R160): taken with the free tag of lowest number, or left
presented, without effect, while no entry is free (log entry 10). -/
def State.present (s : State) (r : Request) : State :=
  match s.freeTag with
  | some t => (s.opened t r).dispatch t r
  | none => { s with port := { s.port with presented := s.port.presented ++ [r] } }

/-- The local processor takes the offered completion (R164): its entry is free, and a request that
waits at the port is taken. -/
def State.takeCompletion (s : State) : State :=
  match s.port.completions with
  | [] => s
  | t :: ts =>
    let s := { s with port := { s.port with entries := s.port.entries.set t .free, completions := ts } }
    match s.port.presented with
    | [] => s
    | r :: rs => ({ s with port := { s.port with presented := rs } }).present r

/-! ### Requests handled anew (R67, R77, R138, R140) -/

/-- An earlier request waits for the station to be MEMBER (R40). -/
def State.memberQueued (s : State) (t : Tag) : Bool :=
  (s.earlier t).any fun u => s.progress u = some .waitsMember

/-- A request held back is handled anew, when its cause has passed; else nothing changes. One that waits for a
home queue entry is handled when one is free and none taken earlier waits for one (R140). -/
def State.resume (s : State) (t : Tag) : State :=
  if !s.takesUp then s
  else match s.progress t with
    | some .waitsMember => if s.memberQueued t then s else s.handle t
    | some .line => s.handle t
    | some (.setWay due) => if due then s.handle t else s
    | some .homeFull => if s.homeFullAhead t || s.freeHome.isNone then s else s.handle t
    | some .homeQueue => if s.queuedReady t then s.handleQueued t else s
    | some .walkWait => if s.walkQueued t then s else s.handleFlushAll t
    | _ => s

end Sys2Proof.Machine
end

