-- ==== Sys2Proof/Machine/Bus.lean ====
section
/-! DEFINITION. Contention rounds, this station's publications, and its replies to the publications of
others (02_the_pool_bus.md, 06_answering_other_stations.md section 6.1, 07_the_home.md section 7.3). -/
namespace Sys2Proof.Machine

/-! ### Contention (R20 to R24) -/

/-- A station in this state contends and publishes (R20). -/
def StationState.contends : StationState → Bool
  | .joining | .settling | .member | .leaving => true
  | .unjoined | .halted => false

/-- A station in this state drives a reply and hands tallies to its blocks (R20). -/
def StationState.replies : StationState → Bool
  | .settling | .member | .leaving => true
  | .unjoined | .joining | .halted => false

/-- The class this station contends in, if it holds an offer (R21). -/
def State.ownClass (s : State) : Option Class :=
  if !s.state.contends then none
  else if !s.supply.order.isEmpty then some .supply
  else if !s.bus.offers.isEmpty then some .request
  else none

/-- A contention key as a number (R22): class, then ranked before unranked, then the position first
at or after reference + 1, or the lowest number among the unranked. -/
def contentionKey (c : Contender) : Nat :=
  (if c.supply then 64 else 0) +
    match c.reference with
    | some r => 32 + (15 - (c.number.val + 31 - r.val) % 16)
    | none => 15 - c.number.val

/-- This station's key is the highest of the round (R22). -/
def State.winsRound (s : State) (c : Class) (others : List Contender) : Bool :=
  others.all fun o =>
    contentionKey o <
      contentionKey { number := s.number, supply := c = .supply, reference := s.bus.reference }

/-- What a record publishes (R89): a RETURN the words of its slot as they stand, a WRITE_THROUGH its
keeps-copy flag as decided now (R70). -/
def State.recordBody (s : State) (r : Record) : Body :=
  match r.kind with
  | .fetch => .fetch
  | .fetchOwn => .fetchOwn
  | .claim => .claim
  | .readDirect => match r.payload with
    | .words f n => .readDirect f n
    | _ => .readDirect 0 0
  | .writeThrough => match r.payload with
    | .writeThrough mask en ws =>
      let keeps := match s.slotOf r.line with
        | some k => decide ((s.slotAt k).state = .read)
        | none => false
      .writeThrough mask keeps en ws
    | _ => .writeThrough 0 false 0 lineZero
  | .operate => match r.payload with
    | .operate op => .operate op
    | _ => .unassigned 0
  | .ret => .ret (match r.slot with
    | some k => (s.slotAt k).words
    | none => lineZero)
  | .release => .release
  | .recallRead => .recallRead
  | .recallAll => .recallAll
  | .data | .join | .ready | .leave | .unassigned => .unassigned 0

/-- The kinds of records whose tenures carry the record tag (R25). -/
def carriesTag : Kind → Bool
  | .fetch | .fetchOwn | .claim | .readDirect | .operate | .recallRead | .recallAll => true
  | _ => false

/-- What a station publishes when it wins with an offer (R21, R27, R89). -/
def State.offerPublication (s : State) (o : Offer) : Option Publication :=
  match o with
  | .record p =>
    match s.recordAt p with
    | some r => some { publisher := s.number, tag := if carriesTag r.kind then p else 0,
                       line := r.line, body := s.recordBody r }
    | none => none
  | .join => some { publisher := s.number, tag := 0, line := 0,
                    body := .join s.decoder.sizeCode s.decoder.table }
  | .ready j => some { publisher := s.number, tag := 0, line := 0, body := .ready j }
  | .leave => some { publisher := s.number, tag := 0, line := 0, body := .leave }

/-- What this station publishes in a class (R21, R118): the entry that became ready first, or the
offer that has waited longest. -/
def State.nextPublication (s : State) (c : Class) : Option (Source × Publication) :=
  match c with
  | .supply =>
    match s.supply.order with
    | e :: _ => match s.supply.entries[e] with
      | .ready d => some (.supply e, { publisher := s.number, tag := d.tag, line := d.line,
                                       body := .data d.data })
      | _ => none
    | [] => none
  | .request =>
    match s.bus.offers with
    | o :: _ => (s.offerPublication o).map fun p => (.offer o, p)
    | [] => none

/-- The reply this station drives in its own tenure (R28): NONE, or silent while JOINING. -/
def State.ownReply (s : State) : ReplyCode :=
  if s.state.replies then replyCode .noReply else replyCode .silent

/-- This station publishes (R19, R23): the tenure is under way, the reference number is its own. -/
def State.publish (s : State) (src : Source) (pub : Publication) : State :=
  { s with bus := { s.bus with contention := none, reference := some s.number,
                               phase := .tenure pub (some src) s.ownReply none } }

/-- A contention round (R21 to R24). One that is void, or that another station wins, leaves this
station its offers; one it wins it follows with its publication. -/
def State.contend (s : State) (others : List Contender) (void : Bool) : State :=
  if s.bus.phase ≠ .free then s
  else match s.ownClass with
    | none => { s with bus := { s.bus with contention := none } }
    | some c =>
      if void || !s.winsRound c others then { s with bus := { s.bus with contention := some c } }
      else match s.nextPublication c with
        | some (src, pub) => s.publish src pub
        | none => { s with bus := { s.bus with contention := some c } }

/-! ### Replies (R29, R104 to R106, R124 to R126, R180) -/

/-- The snoop unit's reply from its slot for the line, before the supply queue is asked (R105). -/
def State.slotReply (s : State) (k : Kind) (l : LineAddr) : Reply :=
  match s.slotOf l with
  | none => .noReply
  | some j =>
    match (s.slotAt j).state with
    | .void => .noReply
    | .read | .upgrading => if k = .ret || k = .release then .noReply else .copy
    | .held | .evicting =>
      match k with
      | .ret | .release => .noReply
      | .claim => .retry
      | _ => .hold
    | .filling | .owning =>
      match s.recordOf l with
      | some (_, r) => if r.phase = .waitingData then .retry else .noReply
      | none => .noReply

/-- The snoop unit's reply: a HOLD without a free supply entry is RETRY (R106). READ_DIRECT names a
line no slot holds. -/
def State.snoopReply (s : State) (k : Kind) (l : LineAddr) : Reply :=
  match s.slotReply k l with
  | .hold => if takesHold k && s.freeSupply.isSome then .hold else .retry
  | r => r

/-- One supply entry is reserved for a tenure (R116). -/
def State.reserveSupply (s : State) (pub : Publication) : State :=
  match s.freeSupply with
  | some e => s.setSupply e (.reserved pub.publisher pub.body.kind pub.line pub.tag)
  | none => s

/-- The kinds a SETTLING or LEAVING home answers RETRY (R124). -/
def asksHome : Kind → Bool
  | .fetch | .fetchOwn | .claim | .readDirect | .writeThrough | .operate => true
  | _ => false

/-- The kinds that need a supply entry at the home (R124, R125). -/
def homeSupplies : Kind → Bool
  | .fetch | .fetchOwn | .readDirect | .operate => true
  | _ => false

/-- The ways of a home line's set that are free (R122). -/
def State.freeWays (s : State) (index : Nat) : List Nat :=
  (loanWays index).filter fun k => (s.loanWay k).entry.isNone

/-- The line has no entry and its set no free way, for the kinds that lend it (R124, R126). -/
def State.setExhausted (s : State) (k : Kind) (index : Nat) : Bool :=
  (k = .fetch || k = .fetchOwn) && (s.loanKey index).isNone && (s.freeWays index).isEmpty

/-- A cause for the home to reply RETRY (R124). A local request that waits for a home queue entry is no
cause: an OPERATE published before it is handled anew may take a freed entry first (the model's choice where
R140 leaves it open, log entry 33). -/
def State.homeRetries (s : State) (k : Kind) (l : LineAddr) (index : Nat) : Bool :=
  (s.state ≠ .member && asksHome k) ||
  (match s.loanOf index with
    | some e => e.busy || e.owedBy.isSome
    | none => false) ||
  s.homeHas l ||
  (homeSupplies k && s.freeSupply.isNone) ||
  (k = .operate && s.freeHome.isNone) ||
  s.setExhausted k index

/-- The victim of an exhausted loan set (R126): the entry of highest rank that is neither busy nor
lost and whose line has no home queue entry. -/
def State.loanVictim (s : State) (index : Nat) : Option LoanEntry :=
  ((loanWays index).foldl (fun (best : Option (Fin 8 × LoanEntry)) k =>
    match (s.loanWay k).entry with
    | none => best
    | some e =>
      if e.busy || e.lost || s.homeHas e.line then best
      else match best with
        | none => some ((s.loanWay k).rank, e)
        | some b => if b.1 < (s.loanWay k).rank then some ((s.loanWay k).rank, e) else best)
    none).map (·.2)

/-- A position is free and no need waits for one (R85). A local request that is due to be handled anew counts as
a need, whether it will ask for a position or not (the model's choice where R85 and R126 leave it open, log entry
41). -/
def State.idlePosition (s : State) : Option RecordTag :=
  if s.returnWaits || s.port.taken.any s.wantsPosition then none else s.freePosition

/-- The recall for an exhausted loan set (R126): made in a free position, offered from the tally on. -/
def State.exhaustionRecall (s : State) (k : Kind) (index : Nat) : State × Option RecordTag :=
  if s.setExhausted k index && s.state = .member then
    match s.loanVictim index, s.idlePosition with
    | some e, some p =>
      ((s.setPosition p (.holding (newRecord .recallAll e.line none [] .exhausted))).updateLoan e.index
        fun e => { e with busy := true }, some p)
    | _, _ => (s, none)
  else (s, none)

/-- The reservations of a home reply of NONE (R125). -/
def State.reserveHome (s : State) (pub : Publication) : State :=
  let s := if homeSupplies pub.body.kind then s.reserveSupply pub else s
  if pub.body.kind = .operate then
    match s.freeHome with
    | some e => s.takeHome e (.reserved pub.publisher pub.line pub.tag)
    | none => s
  else s

/-- The reply is driven, and the tenure is under way (R19). -/
def State.drive (s : State) (pub : Publication) (r : Reply) (exhaustion : Option RecordTag) : State :=
  { s with bus := { s.bus with phase := .tenure pub none (replyCode r) exhaustion } }

/-- The home unit's answer to a line tenure on a home line (R124 to R126). -/
def State.answerHome (s : State) (pub : Publication) (index : Nat) : State :=
  if s.homeRetries pub.body.kind pub.line index then
    let r := s.exhaustionRecall pub.body.kind index
    r.1.drive pub .retry r.2
  else (s.reserveHome pub).drive pub .noReply none

/-- The snoop unit's answer to a line tenure on a line copyable here (R104 to R106). -/
def State.answerSnoop (s : State) (pub : Publication) : State :=
  let r := s.snoopReply pub.body.kind pub.line
  (if r = .hold then s.reserveSupply pub else s).drive pub r none

/-- This station's answer to a publication of another station (R29, R45, R180). -/
def State.answer (s : State) (pub : Publication) : State :=
  match pub.body with
  | .join code image =>
    s.drive pub (if imageAgrees s.decoder.table pub.publisher code image then .noReply else .refuse) none
  | body =>
    if lineKind body.kind then
      match s.homedHere pub.line with
      | some index => s.answerHome pub index
      | none => if s.copyable pub.line then s.answerSnoop pub else s.drive pub .noReply none
    else s.drive pub .noReply none

/-- A publication of another station is observed (R19, R20, R23): the reference number is its
publisher; a station that takes part answers it. -/
def State.observe (s : State) (pub : Publication) : State :=
  if s.bus.phase ≠ .free || pub.publisher = s.number then s
  else
    let s := { s with bus := { s.bus with reference := some pub.publisher } }
    if s.state.replies then s.answer pub else s.drive pub .silent none

end Sys2Proof.Machine
end

