-- ==== Sys2Proof/Machine/Departure.lean ====
section
/-! DEFINITION. The departure of a group of stations and its effects (03_membership_and_station_states.md
section 3.5). -/
namespace Sys2Proof.Machine

/-- The station becomes MEMBER from SETTLING (R48, R49). -/
def State.becomeMember (s : State) : State :=
  { s with state := .member, members := { s.members with awaited := 0, timer := false } }

/-- The station becomes MEMBER from SETTLING, and the requests that waited are taken up (R40, R48). -/
def State.enterMember (s : State) : State := s.becomeMember.takeUpWaiting

/-- The home of a line is in a set of stations. -/
def State.homedIn (s : State) (d : StationSet) (l : LineAddr) : Bool :=
  match s.lineHome l with
  | some h => inSet d h
  | none => false

/-- A station, if named, is in a set of stations. -/
def namedIn (d : StationSet) (p : Option Station) : Bool :=
  match p with
  | some p => inSet d p
  | none => false

/-- The membership controller at a departure (R54). -/
def State.departMembers (s : State) (d : StationSet) : State :=
  let m : Membership :=
    { s.members with present := s.members.present &&& ~~~d,
                     awaited := s.members.awaited &&& ~~~d,
                     ready := s.members.ready.filter fun e => !inSet d e.joiner,
                     changed := true }
  ({ s with members := m }).withdrawWhere fun o => match o with
    | .ready j => inSet d j
    | _ => false

/-- The copy slots at a departure (R55): READ copies of departed homes are voided. -/
def State.departSlots (s : State) (d : StationSet) : State :=
  let slots := tableMap slotDefault
    (fun _ v => if v.state = .read && s.homedIn d v.line then v.voided else v) s.copy.slots
  { s with copy := { s.copy with slots := slots } }

/-- One position at a departure (R56, R100, R101): the first case that applies. -/
def State.departPosition (s : State) (d : StationSet) (p : RecordTag) : State :=
  match s.positions[p] with
  | .holding r =>
    if s.homedIn d r.line then s.failRecord p .homeAbsent false
    else if r.phase = .waitingData && namedIn d r.supplier then
      if r.kind = .recallRead || r.kind = .recallAll then s.failRecord p .homeAbsent false
      else s.countRetry p
    else s
  | .fenced _ x => if inSet d x then s.setPosition p .free else s
  | .free | .reserved _ => s

/-- A recall of the line waits for the DATA of station p (R56, third case). -/
def State.recallAwaits (s : State) (l : LineAddr) (p : Station) : Bool :=
  match s.recordOf l with
  | some (_, r) => (r.kind = .recallRead || r.kind = .recallAll) && r.phase = .waitingData &&
      r.supplier = some p
  | none => false

/-- An OPERATE in the home queue waits for the data of station p on the line (R58). -/
def State.operationAwaits (s : State) (l : LineAddr) (p : Station) : Bool :=
  homeNumbers.any fun e =>
    match s.homeQueue.entries[e] with
    | .operation l' _ _ _ a _ _ => l' = l && a = some p
    | _ => false

/-- The number of entries that a departure marks lost on station p's account (R57). -/
def State.lossesTo (s : State) (p : Station) : Nat :=
  (s.loans.filter fun w =>
    match w.2.entry with
    | some e => e.heldBy = some p || e.owedBy = some p || s.recallAwaits e.line p ||
        s.operationAwaits e.line p
    | none => false).length

/-- A loan entry at a departure, before the freeing check (R57). -/
def LoanEntry.departed (e : LoanEntry) (d : StationSet) (awaited : Bool) : LoanEntry :=
  { e with holders := e.holders &&& ~~~d,
           heldBy := if namedIn d e.heldBy then none else e.heldBy,
           owedBy := if namedIn d e.owedBy then none else e.owedBy,
           lost := e.lost || namedIn d e.heldBy || namedIn d e.owedBy || awaited }

/-- Nothing in a loan entry itself keeps it in existence (R121). -/
def LoanEntry.idle (e : LoanEntry) : Bool :=
  e.holders = 0 && e.heldBy.isNone && e.owedBy.isNone && !e.lost && !e.busy

/-- The loan table at a departure (R57). -/
def State.departLoans (s : State) (d : StationSet) : State :=
  let depart (_ : Nat) (w : LoanWay) : LoanWay :=
    match w.entry with
    | some e =>
      let e' := e.departed d (allStations.any fun p => inSet d p && s.operationAwaits e.line p)
      if e'.idle && !s.homeHas e.line then { w with entry := none } else { w with entry := some e' }
    | none => w
  { s with loans := tableMap loanDefault depart s.loans }

/-- An OPERATE in the home queue executes (R139, R149): its run becomes due at the bank. One that R149
refuses is put through the bank as a run too, which performs nothing (the model's choice of when its result
is ready, log entry 34). -/
def State.startOperation (s : State) (h : Fin 8) : State :=
  match s.homeQueue.entries[h] with
  | .operation l _ _ op _ lost _ =>
    match s.resolveLine l with
    | some res =>
      s.issue (.operate { owner := .operation h, op := operationOp op l, line := l, lost := lost,
                          refusal := operateRefusal (operationOp op l) res.entry })
    | none => s
  | _ => s

/-- One home queue entry at a departure (R58): an OPERATE that waits on a departed holder executes on
memory with its lost-data flag set. -/
def State.departHome (s : State) (d : StationSet) (h : Fin 8) : State :=
  match s.homeQueue.entries[h] with
  | .operation l x g op a lost e =>
    if namedIn d a then (s.setHome h (.operation l x g op none (lost || true) e)).startOperation h
    else s
  | _ => s

/-- The blocks of this station at a departure (R54 to R58), before R52 is judged and the parties of the records
it closes are told. Of several OPERATE entries that execute, the one of lowest number comes first at the bank (the model's
choice where R58 and R151 give no order, log entry 37). -/
def State.departBlocks (s : State) (d : StationSet) : State :=
  let s := (s.departMembers d).departSlots d
  let s := allFour.foldl (fun s p => s.departPosition d p) s
  let s := s.departLoans d
  homeNumbers.foldl (fun s h => s.departHome d h) s

/-- LEAVE is abandoned (R52): the station is MEMBER again, the drain stops where it stands. -/
def State.abandonLeave (s : State) : State :=
  let n := s.retainedHeld
  let s := ({ s with state := .member }).withdraw .leave
  match s.outstanding .leave with
  | some t => s.decided t .retainedLines [BitVec.ofNat 32 n]
  | none => s

/-- R52 is judged once the effects of a departure have been applied (R54): a LEAVING station left with a HELD
slot of an absent home abandons its leave. -/
def State.judgeLeave (s : State) : State :=
  if s.state = .leaving && s.retainedHeld ≠ 0 then s.abandonLeave else s

/-- The effects of a departure (R54 to R58), what they decide of a leave (R52), and then the parties of the
closed records (R102): those that still wait when the leave is abandoned act as in MEMBER. The leave of a station
that the departure's notices halt is not judged (log entry 17). A flush walk whose last record closes here, or
whose last listed slots lose their home, ends here, ahead of the notices (R80, R174). -/
def State.departEffects (s : State) (d : StationSet) (halts : Bool) : State :=
  (s.closing fun s => if halts then s.departBlocks d else (s.departBlocks d).judgeLeave).pruneLists.walkCheck

/-- The LINE_LOST notices of a departure, in ascending order of station (R57, R174): the counts are
of the loan table as the departure found it. -/
def State.departNotices (s : State) (d : StationSet) (losses : Station → Nat) : State :=
  allStations.foldl (fun s p =>
    if inSet d p && 0 < losses p then
      s.post { kind := .lineLost, station := some p, line := none, count := some (losses p) }
    else s) s

/-- The LINE_LOST notices of the departure fill the fault record and halt the station (R57, R174). -/
def State.departHalts (s : State) (d : StationSet) : Bool := (s.departNotices d s.lossesTo).state = .halted

/-- A SETTLING station that awaits no other any more is MEMBER once the departure's effects have been applied
(R48, R54). -/
def State.departEnd (s : State) : State :=
  match s.state with
  | .settling => if s.members.awaited = 0 then s.enterMember else s
  | _ => s

/-- The departure of the stations of d (R54 to R58): effects, notices, and what follows from them.
The completions it makes join in the order the requests were taken, ahead of a halt's (R164, R171). -/
def State.depart (s : State) (d : StationSet) : State :=
  if d = 0 then s
  else
    let losses := s.lossesTo
    if s.departHalts d then (s.inTakenOrder fun s => s.departEffects d true).departNotices d losses
    else s.inTakenOrder fun s => ((s.departEffects d false).departNotices d losses).departEnd

end Sys2Proof.Machine
end

