-- ==== Sys2Proof/Machine/TallyHome.lean ====
section
/-! DEFINITION. Line tenures at their tally: the effect on a copy slot (06_answering_other_stations.md
sections 6.2 to 6.4) and the home's work (07_the_home.md sections 7.4 to 7.7). -/
namespace Sys2Proof.Machine

/-! ### The snoop unit (R107 to R114) -/

/-- The DATA that a supplying slot owes (R112). -/
def slotData (self : Station) (pub : Publication) (v : Slot) (target : Station) (dirty alsoHome : Bool) :
    Supply :=
  { line := pub.line, tag := if pub.body.kind = .writeThrough then 0 else pub.tag,
    data := { target := target, source := self, status := (Slot.status v).code, dirty := dirty,
              alsoHome := alsoHome, first := 0, count := 16, words := v.words.toList } }

/-- A WRITE_THROUGH's bytes applied to a supplying slot (R114); other tenures bring no bytes. -/
def Slot.withBytes (v : Slot) : Body → Slot
  | .writeThrough mask _ en ws => { v with words := mergeLine v.words ws (en &&& maskEnables mask) }
  | _ => v

/-- The reserved entry is filled from slot v, which holds a WRITE_THROUGH's bytes by then, and ready at once
(R112, R114). -/
def State.supplySlot (s : State) (pub : Publication) (v : Slot) : State :=
  match s.reservedSupply with
  | none => s
  | some e =>
    let home := (s.lineHome pub.line).getD pub.publisher
    s.readySupply e (match pub.body.kind with
      | .fetch => slotData s.number pub v pub.publisher false v.dirty
      | .fetchOwn => slotData s.number pub v pub.publisher v.dirty false
      | .writeThrough => slotData s.number pub v home false true
      | _ => slotData s.number pub v home false false)

/-- A CLAIM record whose copy is lost becomes a FETCH_OWN record in its place (R90). -/
def State.convertClaim (s : State) (k : Nat) (l : LineAddr) : State :=
  let s := s.setSlot k { s.slotAt k with state := .owning }
  match s.recordOf l with
  | some (p, _) => s.updateRecord p fun r => { r with kind := .fetchOwn }
  | none => s

/-- The tenure keeps READ copies (R108, R110). -/
def keepsCopies : Kind → Bool
  | .fetch | .recallRead => true
  | _ => false

/-- The tenures that act on a slot (R108 to R110). -/
def actsOnSlots : Kind → Bool
  | .fetch | .fetchOwn | .claim | .operate | .writeThrough | .recallRead | .recallAll => true
  | _ => false

/-- A tenure of another station that takes effect acts on this station's slot k (R108 to R110). A slot that
supplies for a WRITE_THROUGH takes the tenure's bytes first (R114). -/
def State.snoopSlot (s : State) (pub : Publication) (k : Nat) : State :=
  let v := s.slotAt k
  let w := v.withBytes pub.body
  let kind := pub.body.kind
  match v.state with
  | .read => if keepsCopies kind then s else s.setSlot k v.voided
  | .upgrading => if keepsCopies kind then s else s.convertClaim k pub.line
  | .held =>
    if kind = .claim then s
    else (s.supplySlot pub w).setSlot k (if keepsCopies kind then w.toRead else w.voided)
  | .evicting =>
    if kind = .claim then s
    else match s.recordOf pub.line with
      | some (p, _) => ((s.setSlot k w).supplySlot pub w).closeEviction p
      | none => s
  | .void | .filling | .owning => s

/-- The snoop unit at a tally of another station's line tenure (R107): its slot when the tenure takes
effect, and a reservation not used is released. -/
def State.snoopTally (s : State) (pub : Publication) (effect : Bool) : State :=
  (if effect && actsOnSlots pub.body.kind then
    match s.slotOf pub.line with
    | some k => s.snoopSlot pub k
    | none => s
   else s).releaseSupply

/-! ### The home unit (R125 to R139) -/

/-- The reserved home queue entry, if there is one (R125). -/
def State.reservedHome (s : State) : Option (Fin 8) :=
  homeNumbers.find? fun e =>
    match s.homeQueue.entries[e] with
    | .reserved .. => true
    | _ => false

/-- The reservations of a home reply are released (R125). A local request that stands behind the released home
queue entry is handled anew by WAITING_REQUEST_RESUMED, not here (the model's choice where R125 and R138 leave it
open, log entry 1). -/
def State.releaseHome (s : State) : State :=
  let s := s.releaseSupply
  match s.reservedHome with
  | some e => s.freeHomeEntry e
  | none => s

/-- The mismatch check on a held_by station H (R129). -/
def mismatched (kind : Kind) (publisher : Station) (holderSeen : Bool) (h : Station) : Bool :=
  (publisher ≠ h && !holderSeen &&
    (kind = .fetch || kind = .fetchOwn || kind = .operate || kind = .writeThrough ||
     kind = .recallRead || kind = .recallAll)) ||
  (publisher = h &&
    (kind = .fetch || kind = .fetchOwn || kind = .claim || kind = .operate || kind = .writeThrough))

/-- The mismatch check at a tally with effect (R129). -/
def State.mismatchCheck (s : State) (pub : Publication) (rd : Reading) (index : Nat) : State :=
  match s.loanOf index with
  | some e =>
    match e.heldBy with
    | some h =>
      if mismatched pub.body.kind pub.publisher (!rd.holders.isEmpty) h then
        (s.updateLoan index fun e => { e with lost := true, heldBy := none }).post
          { kind := .loanMismatch, station := some h, line := some pub.line, count := none }
      else s
    | none => s
  | none => s

/-- The set of a station, if one is named. -/
def singleOf : Option Station → StationSet
  | some p => single p
  | none => 0

/-- WRITE_THROUGH's keeps-copy flag (R25). -/
def bodyKeeps : Body → Bool
  | .writeThrough _ keeps _ _ => keeps
  | _ => false

/-- The loan update of one entry (R128): X the single HOLD station, R the publisher. -/
def LoanEntry.updated (e : LoanEntry) (pub : Publication) (rd : Reading) : LoanEntry :=
  let x := rd.holder
  let r := pub.publisher
  match pub.body.kind with
  | .fetch =>
    { e with holders := (e.holders &&& ~~~rd.nones) ||| single r ||| singleOf x ||| singleOf e.heldBy,
             heldBy := none, owedBy := if x.isSome then x else e.owedBy }
  | .fetchOwn | .claim => { e with holders := 0, heldBy := some r }
  | .writeThrough =>
    { e with holders := if bodyKeeps pub.body then single r else 0, heldBy := none,
             owedBy := if x.isSome then x else e.owedBy }
  | .operate | .recallAll => { e with holders := 0, heldBy := none }
  | .ret | .release => { e with heldBy := if e.heldBy = some r then none else e.heldBy }
  | .recallRead =>
    { e with holders := if x.isSome then singleOf x else e.holders &&& ~~~rd.nones, heldBy := none }
  | .readDirect | .data | .join | .ready | .leave | .unassigned => e

/-- A loan entry as it is allocated (R121). -/
def freshLoan (index : Nat) (l : LineAddr) : LoanEntry :=
  { index := index, line := l, holders := 0, heldBy := none, owedBy := none, lost := false, busy := false }

/-- A FETCH or FETCH_OWN on a line with no entry allocates one in the free way of lowest number
(R122, R127). -/
def State.allocateLoan (s : State) (k : Kind) (index : Nat) (l : LineAddr) : State :=
  if (k = .fetch || k = .fetchOwn) && (s.loanKey index).isNone then
    match s.freeWays index with
    | w :: _ => s.setLoanWay w { s.loanWay w with entry := some (freshLoan index l) }
    | [] => s
  else s

/-- The loan update at a tally with effect (R127, R128). -/
def State.loanTally (s : State) (pub : Publication) (rd : Reading) (index : Nat) : State :=
  (s.allocateLoan pub.body.kind index pub.line).updateLoan index fun e => e.updated pub rd

/-- The DATA that a supply from memory owes (R132), its words not yet read. -/
def memoryData (self : Station) (pub : Publication) (lost : Bool) (first : BitVec 4) (count : BitVec 5) :
    Supply :=
  { line := pub.line, tag := pub.tag,
    data := { target := pub.publisher, source := self,
              status := (if lost then Status.lostData else Status.ok).code, dirty := false,
              alsoHome := false, first := first, count := count, words := [] } }

/-- A supply from memory (R132): the reserved entry awaits the line read issued now. -/
def State.supplyMemory (s : State) (pub : Publication) (index : Nat) (first : BitVec 4)
    (count : BitVec 5) : State :=
  match s.reservedSupply with
  | some e =>
    (s.setSupply e (.awaiting (memoryData s.number pub (s.lineLost index) first count)
      pub.body.kind)).issue (.supplyRead e index)
  | none => s

/-- An OPERATE with effect confirms its two reservations (R125, R139), and executes at once when it
awaits no holder. -/
def State.confirmOperation (s : State) (pub : Publication) (op : Operation) (holder : Option Station)
    (index : Nat) : State :=
  match s.reservedSupply, s.reservedHome with
  | some e, some h =>
    let s := (s.setSupply e (.awaiting (memoryData s.number pub false 0 0) .operate)).setHome h
      (.operation pub.line pub.publisher pub.tag op holder (s.lineLost index) e)
    if holder.isNone then s.startOperation h else s
  | _, _ => s

/-- A recall's tally with effect and no HOLD clears the busy mark (R136). -/
def State.recallUnheld (s : State) (index : Nat) (holder : Option Station) : State :=
  if holder.isNone then s.updateLoan index fun e => { e with busy := false } else s

/-- The work the home owes at a tally with effect (R127, third): writes, supplies, operations, and the
outcome of a recall. -/
def State.homeWork (s : State) (pub : Publication) (rd : Reading) (index : Nat) : State :=
  match pub.body with
  | .ret ws => s.issue (.store (lineCells index ws allBytes))
  | .writeThrough mask _ en ws => s.issue (.store (lineCells index ws (en &&& maskEnables mask)))
  | .fetch | .fetchOwn => if rd.holder.isSome then s else s.supplyMemory pub index 0 16
  | .readDirect first count => s.supplyMemory pub index first count
  | .operate op => s.confirmOperation pub op rd.holder index
  | .recallRead | .recallAll => s.recallUnheld index rd.holder
  | .claim | .release | .data _ | .join _ _ | .ready _ | .leave | .unassigned _ => s

/-- The recall of this station that is tallied was made for an exhausted loan set (R126). -/
def State.exhaustionTally (s : State) (pub : Publication) : Bool :=
  match s.recordOf pub.line with
  | some (_, r) => pub.publisher = s.number && r.payload = .exhausted
  | none => false

/-- The home unit at a tally with effect (R127), in its four parts. The refresh comes after the freeing
check, so that a way just freed keeps its rank (the model's choice, log entry 31); a RETURN or RELEASE of a
station that held_by does not name refreshes the way of the entry it leaves as it was (log entry 32). -/
def State.homeEffect (s : State) (pub : Publication) (rd : Reading) (index : Nat) : State :=
  (s.mismatchCheck pub rd index).ifLive fun s =>
    let keep := s.exhaustionTally pub || pub.body.kind = .readDirect
    let s := ((s.loanTally pub rd index).homeWork pub rd index).releaseHome.freeIdle index
    if keep then s else s.refreshLoan index

/-- The home unit at a tally of a line tenure on a home line (R127). -/
def State.homeTally (s : State) (pub : Publication) (rd : Reading) (index : Nat) (effect : Bool) : State :=
  if effect then s.homeEffect pub rd index else s.releaseHome

end Sys2Proof.Machine
end

