-- ==== Sys2Proof/Machine/Tally.lean ====
section
/-! DEFINITION. What a tally does: presence, line tenures, the publisher's own record, DATA, and the
membership tenures (02_the_pool_bus.md section 2.5, 03_membership_and_station_states.md,
05_requests_in_flight.md sections 5.4 and 5.5, 07_the_home.md R134). -/
namespace Sys2Proof.Machine

/-! ### The publisher's own record (R91 to R93) -/

/-- The record enters WAITING_DATA (R93, R98): its supplier is noted, its deadline starts, and its
offer is gone. -/
def State.awaitData (s : State) (p : RecordTag) (supplier : Station) : State :=
  (s.updateRecord p fun r =>
    { r with phase := .waitingData, supplier := some supplier, deadline := true }).withdraw (.record p)

/-- An own CLAIM takes effect (R93): the slot is HELD and the tags act on it. -/
def State.ownClaim (s : State) (p : RecordTag) (r : Record) : State :=
  match r.slot with
  | some k =>
    let v := s.slotAt k
    (((s.setSlot k { v with state := .held, dirty := false }).wayLeft k).actTags k .ok r.tags).freeRecord p
  | none => s.freeRecord p

/-- An own WRITE_THROUGH takes effect (R70, R93). -/
def State.ownWriteThrough (s : State) (p : RecordTag) (r : Record) (keeps : Bool) : State :=
  let s : State := match r.payload, s.slotOf r.line with
    | .writeThrough _ en ws, some k =>
      if keeps && (s.slotAt k).state = SlotState.read then s.setSlot k ((s.slotAt k).written ws en) else s
    | _, _ => s
  (s.completeAll r.tags .ok).freeRecord p

/-- An own OPERATE takes effect (R93): the own READ slot of the line is voided. -/
def State.ownOperate (s : State) (p : RecordTag) (r : Record) (home : Station) : State :=
  let s : State := match s.slotOf r.line with
    | some k => if (s.slotAt k).state = SlotState.read then s.setSlot k (s.slotAt k).voided else s
    | none => s
  s.awaitData p home

/-- The record's own tally with effect (R93), by kind. -/
def State.ownEffect (s : State) (p : RecordTag) (r : Record) (keeps : Bool) (holder : Option Station)
    (home : Station) : State :=
  match r.kind with
  | .fetch | .fetchOwn => s.awaitData p (holder.getD home)
  | .claim => s.ownClaim p r
  | .readDirect => s.awaitData p home
  | .operate => s.ownOperate p r home
  | .writeThrough => s.ownWriteThrough p r keeps
  | .ret | .release => s.closeEviction p
  | .recallRead | .recallAll =>
    match holder with
    | some x => s.awaitData p x
    | none => s.freeRecord p
  | .data | .join | .ready | .leave | .unassigned => s

/-! ### Line tenures (R31 to R35) -/

/-- The home position of a line tenure is silent (R34); a line without a home position has none that
could be (log entry 18). -/
def State.homeSilent (s : State) (l : LineAddr) (rd : Reading) : Bool :=
  match s.lineHome l with
  | some h => rd.silent h
  | none => false

/-- A line tenure takes effect at its tally (R32 to R34, R107, R127). -/
def State.takesEffect (s : State) (pub : Publication) (rd : Reading) : Bool :=
  !rd.silent pub.publisher && !s.homeSilent pub.line rd && !rd.hasRetry && rd.holders.length < 2

/-- The exhaustion recall that this station's reply started (R126): offered from the tally on, or
discarded at a silent publisher. -/
def State.exhaustionOutcome (s : State) (rcl : Option RecordTag) (pubSilent : Bool) : State :=
  match rcl with
  | none => s
  | some p =>
    match s.recordAt p with
    | none => s
    | some r =>
      if pubSilent then s.closing fun s => (s.setPosition p .free).recallClosed r.line false
      else s.addOffer (.record p)

/-- The record in position p is the one whose tenure is tallied: it still stands and seeks its tally. -/
def State.seeksTally (s : State) (pub : Publication) (p : RecordTag) : Bool :=
  match s.recordAt p with
  | some r => r.kind = pub.body.kind && r.line = pub.line && r.phase = .waitingBus
  | none => false

/-- The publisher's part at the tally of its own record (R91 to R93), if the record still stands. -/
def State.ownTally (s : State) (pub : Publication) (rd : Reading) (p : RecordTag) : State :=
  match s.recordAt p with
  | none => s
  | some r =>
    if s.seeksTally pub p then
      if s.homeSilent pub.line rd then s.failRecord p .homeAbsent false
      else if s.takesEffect pub rd then
        s.ownEffect p r (bodyKeeps pub.body) rd.holder ((s.lineHome pub.line).getD s.number)
      else s.countRetry p
    else s

/-- The position of this station's record whose tenure is tallied, when the departure of d, read at the same
tally, leaves it standing: one whose home departs is closed by it, and receives nothing more from the tally
(R56, section 5.4 of 05_requests_in_flight.md), whatever record may since have been made in its position. -/
def State.standing (s : State) (pub : Publication) (own : Option Source) (d : StationSet) : Option RecordTag :=
  match own with
  | some (.offer (.record p)) => if s.homedIn d pub.line then none else some p
  | _ => none

/-- The tally of this station's own record, mine, shows two HOLDs (R33, R91). -/
def State.conflicting (s : State) (pub : Publication) (mine : Option RecordTag) (rd : Reading) : Bool :=
  match mine with
  | some p =>
    lineKind pub.body.kind && s.seeksTally pub p && !s.homeSilent pub.line rd && 2 ≤ rd.holders.length
  | none => false

/-- TALLY_CONFLICT is posted (R33, R91). It comes after everything else its tally does, the completions of a
record that reaches its retry limit among them (the model's choice of order, log entry 35). -/
def State.noteConflict (s : State) (l : LineAddr) (conflict : Bool) : State :=
  if conflict then s.post { kind := .tallyConflict, station := none, line := some l, count := none }
  else s

/-- The tally of a line tenure (R30 to R35): the recall that the reply started, the home unit or the
snoop unit, of which only one has a part in a line (R29), and the publisher's record, mine, if it stands. -/
def State.lineTally (s : State) (pub : Publication) (own : Option Source) (rd : Reading)
    (mine rcl : Option RecordTag) : State :=
  let effect := s.takesEffect pub rd
  let s := s.exhaustionOutcome rcl (rd.silent pub.publisher)
  let s := match s.homedHere pub.line with
    | some index => s.homeTally pub rd index effect
    | none => if own.isNone then s.closing fun s => s.snoopTally pub effect else s
  s.ifLive fun s => match mine with
    | some p => s.closing fun s => s.ownTally pub rd p
    | none => s

/-! ### DATA (R37, R94 to R97, R134, R180) -/

/-- A DATA that R180 has its target take as MEMORY_ERROR. -/
def dataBad (d : Data) : Bool := (statusOf d.status).isNone || 16 < d.first.toNat + d.count.toNat

/-- The outcome of line data at its target: a bad DATA, and a status that line data does not have
(log entry 14), are taken as MEMORY_ERROR (R180). -/
def lineOutcome (d : Data) : Status :=
  if dataBad d then .memoryError
  else match statusOf d.status with
    | some .ok => .ok
    | some .lostData => .lostData
    | _ => .memoryError

/-- Word i of the line is carried by the DATA (R26). -/
def carried (d : Data) (i : Nat) : Option Word :=
  if d.first.toNat ≤ i && i < d.first.toNat + d.count.toNat then d.words[i - d.first.toNat]? else none

/-- The line that line data fills, a free value in each word it does not carry (log entry 6). -/
def dataLine (d : Data) (next : Nat) : Line :=
  lineOf fun i => (carried d i).getD (Config.freeWord (next * 16 + i))

/-- The DATA carries all sixteen words of its line. -/
def dataFull (d : Data) : Bool := (List.range 16).all fun i => (carried d i).isSome

/-- A free value has been used by a line that the DATA did not carry whole (log entry 6). -/
def State.freeUsed (s : State) (d : Data) : State :=
  if dataFull d then s else { s with freeNext := s.freeNext + 1 }

/-- A FETCH or FETCH_OWN record takes its DATA (R81, R95). -/
def State.takeFill (s : State) (p : RecordTag) (r : Record) (d : Data) : State :=
  let st := lineOutcome d
  if st = .memoryError then s.failRecord p .memoryError false
  else match r.slot with
    | some k =>
      let s' := s.setSlot k
        ((s.slotAt k).filled (r.kind = .fetchOwn) d.dirty (st = .lostData) (dataLine d s.freeNext))
      (((s'.wayLeft k).freeUsed d).actTags k st r.tags).freeRecord p
    | none => s.freeRecord p

/-- The status an operation's result carries to its requester (R96, R180). -/
def resultOutcome (d : Data) : Status :=
  if dataBad d then .memoryError else (statusOf d.status).getD .memoryError

/-- A record's one tag completes with words, and the record closes (R96). -/
def State.closeWith (s : State) (p : RecordTag) (r : Record) (st : Status) (ws : List Word) : State :=
  (r.tags.foldl (fun s t => s.complete t st ws) s).freeRecord p

/-- A READ_DIRECT record takes its DATA (R96). -/
def State.takeDirect (s : State) (p : RecordTag) (r : Record) (d : Data) : State :=
  let st := lineOutcome d
  s.closeWith p r st (if st = .memoryError then [] else d.words)

/-- An OPERATE record takes its DATA (R96, R157, R180; log entry 15). -/
def State.takeResult (s : State) (p : RecordTag) (r : Record) (d : Data) : State :=
  s.closeWith p r (resultOutcome d) (if dataBad d then [0] else d.words)

/-- A recall record takes its DATA (R97, R137). -/
def State.takeRecall (s : State) (p : RecordTag) (r : Record) (d : Data) : State :=
  let st := lineOutcome d
  if st = .memoryError then s.failRecord p .memoryError false
  else
    let s' := match s.homedHere r.line with
      | some i => s.issue (.store (lineCells i (dataLine d s.freeNext) allBytes))
      | none => s
    ((s'.freeUsed d).freeRecord p).recallClosed r.line (st = .lostData)

/-- A record takes its matching DATA (R94). -/
def State.takeData (s : State) (p : RecordTag) (r : Record) (d : Data) : State :=
  match r.kind with
  | .fetch | .fetchOwn => s.takeFill p r d
  | .readDirect => s.takeDirect p r d
  | .operate => s.takeResult p r d
  | .recallRead | .recallAll => s.takeRecall p r d
  | .claim | .writeThrough | .ret | .release | .data | .join | .ready | .leave | .unassigned => s

/-- The OPERATE entry of a line that awaits holder data from station x (R134). -/
def State.awaitingOperation (s : State) (l : LineAddr) (x : Station) : Option (Fin 8) :=
  homeNumbers.find? fun h =>
    match s.homeQueue.entries[h] with
    | .operation l' _ _ _ a _ _ => l' = l && a = some x
    | _ => false

/-- An OPERATE entry takes its holder data (R139): the line is written and the operation executes; a
DATA taken as MEMORY_ERROR writes nothing and loses the line. -/
def State.takeHolderData (s : State) (h : Fin 8) (d : Data) : State :=
  match s.homeQueue.entries[h] with
  | .operation l x g op _ lost e =>
    match s.homedHere l with
    | some i =>
      let st := lineOutcome d
      let s' :=
        if st = .memoryError then s.updateLoan i fun e => { e with lost := true }
        else (s.issue (.store (lineCells i (dataLine d s.freeNext) allBytes))).freeUsed d
      (s'.setHome h (.operation l x g op none (lost || st ≠ .ok) e)).startOperation h
    | none => s
  | _ => s

/-- The record that a DATA for this station matches (R94). -/
def State.matchRecord (s : State) (pub : Publication) (d : Data) : Option Record :=
  match s.recordAt pub.tag with
  | some r =>
    if r.phase = .waitingData && r.line = pub.line && r.supplier = some d.source then some r else none
  | none => none

/-- The DATA matches the fence of its record tag's position (R100). -/
def State.matchFence (s : State) (pub : Publication) (d : Data) : Bool :=
  s.positions[pub.tag] = .fenced pub.line d.source

/-- A DATA at its target (R94): a record, a fence, an OPERATE entry, or nothing takes it. -/
def State.receiveData (s : State) (pub : Publication) (d : Data) : State :=
  match s.matchRecord pub d with
  | some r => s.takeData pub.tag r d
  | none =>
    if s.matchFence pub d then s.setPosition pub.tag .free
    else match s.awaitingOperation pub.line d.source with
      | some h => s.takeHolderData h d
      | none => s

/-- The write-back copy of a DATA with also-home set, at the home of its line (R37, R134, R180). -/
def State.writeBack (s : State) (pub : Publication) (d : Data) : State :=
  match s.homedHere pub.line with
  | some i =>
    if d.alsoHome && !dataBad d then
      s.issue (.store (lineCells i (dataLine d 0)
        (wordEnables d.first.toNat (min d.count.toNat d.words.length))))
    else s
  | none => s

/-- A DATA of the owed_by station settles what it owed (R134). -/
def State.settleOwed (s : State) (pub : Publication) : State :=
  match s.homedHere pub.line with
  | some i =>
    match s.loanOf i with
    | some e =>
      if e.owedBy = some pub.publisher then
        (s.updateLoan i fun e => { e with owedBy := none }).freeIdle i
      else s
    | none => s
  | none => s

/-- The publisher's supply entry becomes free at the tally of its DATA (R37). -/
def State.releaseSource (s : State) (own : Option Source) : State :=
  match own with
  | some (.supply e) => s.freeSupplyEntry e
  | _ => s

/-- The tally of a DATA with a present publisher (R37, R94, R134). -/
def State.dataEffect (s : State) (pub : Publication) (own : Option Source) (d : Data) : State :=
  let s := ((s.releaseSource own).writeBack pub d).settleOwed pub
  if d.target = s.number then s.closing fun s => s.receiveData pub d else s

/-! ### JOIN, READY, LEAVE (R44 to R48, R53) -/

/-- The open request is not a member of the command stream. -/
def poolProgress : Option Progress → Bool
  | some (.stream _) => false
  | some _ => true
  | none => false

/-- Every open request that is no command completes NOT_MEMBER (R44, R53), the result of an access under
way for it is not used, and nothing of the pool remains. -/
def State.dismissPool (s : State) : State :=
  ((s.port.taken.filter fun t => poolProgress (s.progress t)).foldl
    (fun s t => s.completeHome t .notMember []) s).dropAccesses.vacate

/-- The tally of the own JOIN refuses this station (R44): JOIN completes with the refusing set (R165). -/
def State.joinRefused (s : State) (refusers : StationSet) : State :=
  s.inTakenOrder fun s =>
    let s := ({ s with state := .unjoined, decoder := { s.decoder with frozen := false } }).withdraw .join
    let s := match s.outstanding .join with
      | some t => s.decided t .joinRefused [refusers.zeroExtend 32]
      | none => s
    s.dismissPool

/-- The tally of the own JOIN admits this station beside the stations of `others` (R44, R59). -/
def State.joinAdmitted (s : State) (others : StationSet) : State :=
  let m : Membership :=
    { s.members with present := others ||| single s.number, awaited := others, timer := others ≠ 0,
                     changed := s.members.changed || others ≠ 0 }
  let s' := ({ s with state := if others = 0 then .member else .settling, members := m }).withdraw .join
  match s'.outstanding .join with
  | some t => s'.decided t .ok []
  | none => s'

/-- The tally of the own JOIN admits this station (R44): in a pool of its own it is MEMBER at once, and the
requests that waited are taken up (R40). -/
def State.joinEntered (s : State) (others : StationSet) : State :=
  if others = 0 then s.inTakenOrder fun s => (s.joinAdmitted others).takeUpWaiting else s.joinAdmitted others

/-- The tally of the own JOIN (R44). -/
def State.ownJoin (s : State) (rd : Reading) : State :=
  if rd.refusers ≠ 0 then s.joinRefused rd.refusers
  else s.joinEntered (rd.presentSet &&& ~~~(single s.number))

/-- A slot of a joiner's line at its admission (R46): READ and clean HELD copies are dropped. -/
def State.dropForJoiner (s : State) (j : Station) : State :=
  let slots := tableMap slotDefault
    (fun _ v =>
      if (v.state = .read || (v.state = .held && !v.dirty)) && s.lineHome v.line = some j then v.voided
      else v) s.copy.slots
  { s with copy := { s.copy with slots := slots } }

/-- The slots on the return list for a joiner, in order of set and way (R46). -/
def State.listedFor (s : State) (j : Station) : List Nat :=
  (s.copy.slots.filter fun e =>
    e.2.state = .held && e.2.dirty && s.lineHome e.2.line = some j).map (·.1)

/-- The positions of the eviction records of a joiner's lines (R46). -/
def State.owedTo (s : State) (j : Station) : List RecordTag :=
  allFour.filter fun p =>
    match s.recordAt p with
    | some r => (r.kind = .ret || r.kind = .release) && s.lineHome r.line = some j
    | none => false

/-- Another station's JOIN admits it (R45, R46, R59). -/
def State.admitJoiner (s : State) (j : Station) : State :=
  let s := s.dropForJoiner j
  let entry : ReadyEntry := { joiner := j, listed := s.listedFor j, owed := s.owedTo j }
  let m : Membership :=
    { s.members with present := s.members.present ||| single j, changed := true,
                     ready := s.members.ready ++ [entry] }
  ({ s with members := m }).grantStep

/-- The tally of another station's JOIN, after presence (R45). -/
def State.joinTally (s : State) (j : Station) (rd : Reading) : State :=
  if rd.refusers ≠ 0 then s else s.admitJoiner j

/-- The tally of a READY (R27, R47, R48). -/
def State.readyTally (s : State) (pub : Publication) (own : Option Source) (target : Station)
    (rd : Reading) : State :=
  if own.isSome then s.withdraw (.ready target)
  else if target = s.number && s.state = .settling && !rd.silent pub.publisher &&
      inSet s.members.awaited pub.publisher then
    let s := { s with members := { s.members with
        awaited := s.members.awaited &&& ~~~(single pub.publisher) } }
    if s.members.awaited = 0 then s.enterMember else s
  else s

/-- The tally of the own LEAVE (R53). -/
def State.ownLeave (s : State) : State :=
  s.inTakenOrder fun s =>
    let m : Membership := { s.members with present := 0, awaited := 0, timer := false, ready := [] }
    let s := { s with state := .unjoined, decoder := { s.decoder with frozen := false }, members := m }
    let s := s.withdrawWhere fun o => match o with
      | .ready _ | .leave => true
      | _ => false
    let s := match s.outstanding .leave with
      | some t => s.decided t .ok []
      | none => s
    s.dismissPool

/-- The tally of another station's LEAVE, after presence (R53). -/
def State.leaveTally (s : State) (p : Station) : State :=
  if inSet s.members.present p then s.depart (single p) else s

/-! ### The tally (R30) -/

/-- The stations found departed at a tally (R31, R42). -/
def State.departedAt (s : State) (rd : Reading) : StationSet :=
  setWhere fun p => p ≠ s.number && inSet s.members.present p && rd.silent p

/-- The effect of a tenure after presence, by kind. -/
def State.tenureEffect (s : State) (pub : Publication) (own : Option Source) (rd : Reading)
    (mine rcl : Option RecordTag) : State :=
  match pub.body with
  | .data d => if rd.silent pub.publisher then s else s.dataEffect pub own d
  | .join _ _ => if own.isSome then s else s.joinTally pub.publisher rd
  | .ready target => s.readyTally pub own target rd
  | .leave => if own.isSome || rd.silent pub.publisher then s else s.leaveTally pub.publisher
  | .unassigned _ => s
  | _ => s.lineTally pub own rd mine rcl

/-- The tenures whose own effect closes no record with a list of waiting tags: what their tally completes,
at presence and after it, joins in the order taken (R164). -/
def closesNoRecord : Kind → Bool
  | .join | .leave => true
  | _ => false

/-- The completions on the way from s to u, at a tally, in the order taken where the tally reads a departure
or closes no record of its own, and does not halt the station (R164, R171). Where it closes one record and
reads no departure, the record's waiting tags come first, in list order, and then those of the parties that
wait on it (R102). -/
def State.jointly (s : State) (several : Bool) (u : State) : State :=
  if u.state ≠ .halted && several then s.inTakenOrder fun _ => u else u

/-- A tally handed to the blocks (R20, R30): presence first, then the tenure's effect. The tallies of
the own JOIN and the own LEAVE are the two that read no departures (R44, R53). -/
def State.handleTally (s : State) (pub : Publication) (own : Option Source) (rd : Reading)
    (rcl : Option RecordTag) : State :=
  if own = some (.offer .join) then
    if s.state = .joining then s.ownJoin rd else s
  else if !s.state.replies then s
  else if own = some (.offer .leave) then
    if s.state = .leaving then s.ownLeave else s
  else
    let mine := s.standing pub own (s.departedAt rd)
    let v := s.depart (s.departedAt rd)
    let u := s.jointly (s.departedAt rd ≠ 0 || closesNoRecord pub.body.kind)
      (v.ifLive fun s => (s.tenureEffect pub own rd mine rcl).pruneLists.walkCheck)
    u.ifLive fun u => u.noteConflict pub.line (v.conflicting pub mine rd)

/-- The tally of the tenure under way, of kind k (R19, R30): the bus is free afterwards. The own
position is what this station drove. A tally of another kind cannot occur (log entry 2). -/
def State.tally (s : State) (k : Kind) (t : Tally) : State :=
  match s.bus.phase with
  | .free => s
  | .tenure pub own drove rcl =>
    if pub.body.kind = k then
      ({ s with bus := { s.bus with phase := .free } }).handleTally pub own
        { kind := k, tally := t.set s.number drove } rcl
    else s

end Sys2Proof.Machine
end

