-- ==== Sys2Proof/Machine/Events.lean ====
section
/-! DEFINITION. What the timebase, the bank, the drain and the resets do to the station: expiries, the
ends of bank accesses and of operation runs, DRAIN_COMPLETE and the two resets (R18, R38, R49, R51, R99,
R119, R132, R133, R141, R142, R151). An event that cannot occur leaves the state as it is (log entry 2). -/
namespace Sys2Proof.Machine

/-! ### Expiries (R49, R99) -/

/-- The data deadline of the record in position p expires (R99). The parties that wait on the record are told
before the SUPPLY_OVERDUE notice, which may halt the station (the model's choice of order, log entry 38). -/
def State.deadlineExpiry (s : State) (p : RecordTag) : State :=
  match s.recordAt p with
  | none => s
  | some r =>
    match r.supplier with
    | none => s
    | some x =>
      if r.phase = .waitingData && r.deadline then
        (s.closing fun s => s.failRecord p .noAnswer true).post
          { kind := .supplyOverdue, station := some x, line := some r.line, count := none }
      else s

/-- The settle timer expires (R49). -/
def State.settleExpiry (s : State) : State :=
  if s.state = .settling && s.members.timer then
    (s.post { kind := .settleOverdue, station := allStations.find? (inSet s.members.awaited),
              line := none, count := some (setCount s.members.awaited) }).ifLive State.enterMember
  else s

/-! ### Ends of bank accesses (R119) -/

/-- The oldest access of a kind ends: the one that f reads, and the accesses still under way. -/
def popAccess {α : Type} (f : Access → Option α) : List Access → Option (α × List Access)
  | [] => none
  | a :: rest =>
    match f a with
    | some v => some (v, rest)
    | none => (popAccess f rest).map fun r => (r.1, a :: r.2)

/-- The state with the accesses under way replaced. -/
def State.setInFlight (s : State) (l : List Access) : State :=
  { s with bank := { s.bank with inFlight := l } }

/-- An access that is a supply read: its entry and its words. -/
def asSupplyRead : Access → Option (Option (Fin 4) × Line)
  | .supplyRead e ws => some (e, ws)
  | _ => none

/-- An access that is a local read: its tag, the lost mark at its issue, and its words. -/
def asLocalRead : Access → Option (Option Tag × Bool × List Word)
  | .localRead t lost ws => some (t, lost, ws)
  | _ => none

/-- An access that is a local write: its tag. -/
def asLocalStore : Access → Option (Option Tag)
  | .localStore t => some t
  | _ => none

/-- A loan entry after the failed supply of a FETCH or FETCH_OWN of station r (R133). -/
def LoanEntry.corrected (e : LoanEntry) (kind : Kind) (r : Station) : LoanEntry :=
  match kind with
  | .fetch => { e with holders := e.holders &&& ~~~(single r) }
  | .fetchOwn => { e with heldBy := if e.heldBy = some r then none else e.heldBy }
  | _ => e

/-- The loan of a line is corrected after a failed supply, and freed if nothing keeps it (R133). -/
def State.correctLoan (s : State) (l : LineAddr) (kind : Kind) (r : Station) : State :=
  match s.homedHere l with
  | some i => (s.updateLoan i fun e => e.corrected kind r).freeIdle i
  | none => s

/-- A supply whose read ended without error (R132). -/
def Supply.filledBy (d : Supply) (ws : Line) : Supply :=
  { d with data := { d.data with words := sliceLine ws d.data.first.toNat d.data.count.toNat } }

/-- A supply whose read ended in error (R133): MEMORY_ERROR, and zero words. -/
def Supply.failed (d : Supply) : Supply :=
  { d with data := { d.data with status := Status.code .memoryError,
                                 words := List.replicate d.data.count.toNat 0 } }

/-- A supply read for entry e ends (R132, R133). -/
def State.supplyReadDone (s : State) (e : Fin 4) (ws : Line) (err : Bool) : State :=
  match s.supply.entries[e] with
  | .awaiting d kind =>
    if err then
      ((s.readySupply e d.failed).correctLoan d.line kind d.data.target).post
        { kind := .memoryError, station := some d.data.target, line := some d.line, count := none }
    else s.readySupply e (d.filledBy ws)
  | _ => s

/-- The oldest supply read ends (R119, R132, R133). -/
def State.supplyReadEnd (s : State) (err : Bool) : State :=
  match popAccess asSupplyRead s.bank.inFlight with
  | some ((some e, ws), rest) => (s.setInFlight rest).supplyReadDone e ws err
  | some ((none, _), rest) => s.setInFlight rest
  | none => s

/-- A local read for tag t ends (R141). -/
def State.localReadDone (s : State) (t : Tag) (lost : Bool) (ws : List Word) (err : Bool) : State :=
  if err then
    (s.completeHome t .memoryError []).post
      { kind := .memoryError, station := some s.number, line := (s.request t).bind requestLine,
        count := none }
  else s.completeHome t (if lost then .lostData else .ok) ws

/-- The oldest local read ends (R119, R141). -/
def State.localReadEnd (s : State) (err : Bool) : State :=
  match popAccess asLocalRead s.bank.inFlight with
  | some ((some t, lost, ws), rest) => (s.setInFlight rest).localReadDone t lost ws err
  | some ((none, _, _), rest) => s.setInFlight rest
  | none => s

/-- The oldest write of a local request ends (R119, R142). -/
def State.memoryWriteEnd (s : State) : State :=
  match popAccess asLocalStore s.bank.inFlight with
  | some (some t, rest) => (s.setInFlight rest).completeHome t .ok []
  | some (none, rest) => s.setInFlight rest
  | none => s

/-! ### The end of an operation run (R139, R149 to R151, R157) -/

/-- What a run gives (R151, R157): a refusal of the home, a read error, or the operation's result on
the home memory, with the bytes it stores. -/
def State.runResult (s : State) (r : Run) (err : Bool) : OpResult × List Host.Cell :=
  match r.refusal with
  | some st => ({ status := st, words := [0], writes := [] }, [])
  | none =>
    if err then ({ status := .memoryError, words := [0], writes := [] }, [])
    else match s.resolveLine r.line with
      | some res =>
        let o := opResult r.op res.entry (readHome s.bank.mem res.entry)
        ({ o with status := lostStatus r.lost o.status }, opCells res.entry o.writes)
      | none => ({ status := .memoryError, words := [0], writes := [] }, [])

/-- The result entry of an OPERATE is filled, and its home queue entry becomes free (R138, R139). -/
def State.deliverResult (s : State) (h : Fin 8) (o : OpResult) : State :=
  match s.homeQueue.entries[h] with
  | .operation _ _ _ _ _ _ e =>
    match s.supply.entries[e] with
    | .awaiting d _ =>
      (s.readySupply e { d with data := { d.data with
        status := o.status.code, first := 0, count := BitVec.ofNat 5 o.words.length,
        words := o.words } }).freeHomeEntry h
    | _ => s.freeHomeEntry h
  | _ => s

/-- The station a MEMORY_ERROR notice of a run names (R151): this station, or the requester. -/
def State.runStation (s : State) (r : Run) : Station :=
  match r.owner with
  | .request _ => s.number
  | .operation h =>
    match s.homeQueue.entries[h] with
    | .operation _ x _ _ _ _ _ => x
    | _ => s.number

/-- The result of a run goes to the local port, or into a DATA (R150, R139). -/
def State.deliver (s : State) (r : Run) (o : OpResult) : State :=
  match r.owner with
  | .request t => s.completeHome t o.status o.words
  | .operation h => s.deliverResult h o

/-- A read of the run ended in error: the run was not refused by the home's own check (R149, R151). -/
def Run.inError (r : Run) (err : Bool) : Bool := err && r.refusal.isNone

/-- The operation run under way ends (R151): its words are written, its result delivered, a read error
noticed, and the accesses held during it issued (log entry 8). The notice comes before them, so that one that
halts the station drops them (the model's choice where R151 and R174 give no order, log entry 39). -/
def State.runEnd (s : State) (err : Bool) : State :=
  match s.bank.run with
  | none => s
  | some r =>
    let o := s.runResult r err
    let s' := { s with bank := { s.bank with run := none, mem := writeCells s.bank.mem o.2 } }
    let s' := s'.deliver r o.1
    let s' := if r.inError err then
        s'.post { kind := .memoryError, station := some (s.runStation r), line := some r.line,
                  count := none }
      else s'
    s'.ifLive State.issueHeld

/-! ### The drain's end (R51) -/

/-- The drain of LEAVING is complete (R51): nothing of the pool remains, nothing is owed to a joiner,
and no request taken before the LEAVE command t is open (log entry 26). -/
def State.drained (s : State) (t : Tag) : Bool :=
  s.copy.slots.all (fun e => e.2.state = .void) &&
  s.loans.all (fun w => w.2.entry.isNone) &&
  allFour.all (fun p => s.positions[p] = .free) &&
  allFour.all (fun e => s.supply.entries[e] = .free) &&
  homeNumbers.all (fun h => s.homeQueue.entries[h] = .free) &&
  s.members.ready.isEmpty &&
  (s.earlier t).all fun u => !poolProgress (s.progress u)

/-- The LEAVE offer is made when the drain is complete (R51). -/
def State.drainEnd (s : State) : State :=
  if s.state = .leaving && !s.bus.offers.contains .leave then
    match s.outstanding .leave with
    | some t => if s.drained t then s.addOffer .leave else s
    | none => s
  else s

/-! ### The resets (R18, R23, R38, R39, R63, R82, R115, R119, R122, R138, R171, R179) -/

/-- The station after a reset that leaves it its number: everything as State.reset has it but the
number, the bank's contents, and the accesses the bank carries to their end with no use of their
results (R119). The queue of commands is the sender's. -/
def State.resetStation (s : State) : State :=
  { State.reset with
    pending := s.pending, number := s.number,
    bank := { mem := s.bank.mem, run := none, held := [], inFlight := s.bank.inFlight.map .orphaned },
    freeNext := s.freeNext }

/-- The station after power-on reset: the number is sampled from the slot pins (R38). -/
def State.resetPower (s : State) (sn : BitVec 4) : State :=
  { s.resetStation with number := sn.toFin }

end Sys2Proof.Machine
end

