-- ==== Sys2Proof/Machine/LocalPort.lean ====
section
/-! DEFINITION. The commands of the local processor: the sixteen request kinds, requests of
unknown kind, and the taking of a completion (09_the_local_port.md). -/
namespace Sys2Proof.Machine

/-- READ (R10, R66, R68, R141, R161): it is taken at the port and dispatched. -/
def execRead (a : Word) (count : BitVec 5) (s : State) : Host.Outcome State Fault Refusal :=
  .next (s.present (.read a count)).settle

/-- WRITE (R10, R69, R70, R142, R161). -/
def execWrite (a : Word) (count : BitVec 5) (enables : BitVec 64) (words : List Word) (s : State) :
    Host.Outcome State Fault Refusal :=
  .next (s.present (.write a count enables words)).settle

/-- COND_STORE (R144 to R152). -/
def execCondStore (a t v : Word) (sense : Sense) (s : State) : Host.Outcome State Fault Refusal :=
  .next (s.present (.operation (.condStore a t v sense))).settle

/-- ACCUMULATE (R144 to R151, R153). -/
def execAccumulate (p x y : Word) (variant : Variant) (s : State) :
    Host.Outcome State Fault Refusal :=
  .next (s.present (.operation (.accumulate p x y variant))).settle

/-- PUSH (R144 to R151, R154, R155). -/
def execPush (d : Word) (mark : Bool) (count : BitVec 5) (values : List Word) (s : State) :
    Host.Outcome State Fault Refusal :=
  .next (s.present (.operation (.push d mark count values))).settle

/-- POP (R144 to R151, R154, R156). -/
def execPop (d : Word) (count : BitVec 5) (s : State) : Host.Outcome State Fault Refusal :=
  .next (s.present (.operation (.pop d count))).settle

/-- FLUSH_LINE (R78). -/
def execFlushLine (a : Word) (s : State) : Host.Outcome State Fault Refusal :=
  .next (s.present (.flushLine a)).settle

/-- DISCARD_LINE (R79). -/
def execDiscardLine (a : Word) (s : State) : Host.Outcome State Fault Refusal :=
  .next (s.present (.discardLine a)).settle

/-- REPAIR_LINE (R143). -/
def execRepairLine (a : Word) (s : State) : Host.Outcome State Fault Refusal :=
  .next (s.present (.repairLine a)).settle

/-- FLUSH_ALL (R80). -/
def execFlushAll (s : State) : Host.Outcome State Fault Refusal :=
  .next (s.present .flushAll).settle

/-- APERTURE_READ (R167). -/
def execApertureRead (offset : Word) (s : State) : Host.Outcome State Fault Refusal :=
  .next (s.present (.apertureRead offset)).settle

/-- APERTURE_WRITE (R13, R168, R181). -/
def execApertureWrite (offset w : Word) (s : State) : Host.Outcome State Fault Refusal :=
  .next (s.present (.apertureWrite offset w)).settle

/-- JOIN (R14, R43, R169). -/
def execJoin (s : State) : Host.Outcome State Fault Refusal :=
  .next (s.present .join).settle

/-- LEAVE (R50, R51, R169). -/
def execLeave (s : State) : Host.Outcome State Fault Refusal :=
  .next (s.present .leave).settle

/-- ACK_FAULT (R170, R177). -/
def execAckFault (s : State) : Host.Outcome State Fault Refusal :=
  .next (s.present .ackFault).settle

/-- ACK_MEMBERSHIP (R59, R170). -/
def execAckMembership (s : State) : Host.Outcome State Fault Refusal :=
  .next (s.present .ackMembership).settle

/-- A request of a kind the port does not know (R160, R181). -/
def execUnknownRequestKind (code : BitVec 5) (s : State) : Host.Outcome State Fault Refusal :=
  .next (s.present (.unknown code)).settle

/-- The local processor takes the offered completion (R164). -/
def execCompletionTake (s : State) : Host.Outcome State Fault Refusal :=
  .next s.takeCompletion.settle

end Sys2Proof.Machine
end

