-- ==== Sys2Proof/Machine/PoolBus.lean ====
section
/-! DEFINITION. The commands of the pool bus: contention rounds, publications and the fifteen tallies
(02_the_pool_bus.md). -/
namespace Sys2Proof.Machine

/-- A contention round, and this station's publication when it wins (R21 to R24, R89). -/
def execContentionRound (others : List Contender) (void : Bool) (s : State) :
    Host.Outcome State Fault Refusal :=
  .next (s.contend others void).settle

/-- A publication of another station (R23, R29, R104 to R106, R124 to R126, R180). -/
def execPublication (pub : Publication) (s : State) : Host.Outcome State Fault Refusal :=
  .next (s.observe pub).settle

/-- The tally of a FETCH (R30 to R35, R93, R108, R128, R132). -/
def execFetchTally (t : Tally) (s : State) : Host.Outcome State Fault Refusal :=
  .next (s.tally .fetch t).settle

/-- The tally of a FETCH_OWN (R30 to R35, R93, R109, R128, R132). -/
def execFetchOwnTally (t : Tally) (s : State) : Host.Outcome State Fault Refusal :=
  .next (s.tally .fetchOwn t).settle

/-- The tally of a CLAIM (R30 to R35, R93, R109, R128). -/
def execClaimTally (t : Tally) (s : State) : Host.Outcome State Fault Refusal :=
  .next (s.tally .claim t).settle

/-- The tally of a READ_DIRECT (R30 to R35, R93, R132). -/
def execReadDirectTally (t : Tally) (s : State) : Host.Outcome State Fault Refusal :=
  .next (s.tally .readDirect t).settle

/-- The tally of a WRITE_THROUGH (R30 to R35, R70, R93, R110, R114, R131). -/
def execWriteThroughTally (t : Tally) (s : State) : Host.Outcome State Fault Refusal :=
  .next (s.tally .writeThrough t).settle

/-- The tally of a OPERATE (R30 to R35, R93, R110, R139, R149). -/
def execOperateTally (t : Tally) (s : State) : Host.Outcome State Fault Refusal :=
  .next (s.tally .operate t).settle

/-- The tally of a RETURN (R30 to R35, R93, R130). -/
def execReturnTally (t : Tally) (s : State) : Host.Outcome State Fault Refusal :=
  .next (s.tally .ret t).settle

/-- The tally of a RELEASE (R30 to R35, R93, R130). -/
def execReleaseTally (t : Tally) (s : State) : Host.Outcome State Fault Refusal :=
  .next (s.tally .release t).settle

/-- The tally of a RECALL_READ (R30 to R35, R93, R110, R136). -/
def execRecallReadTally (t : Tally) (s : State) : Host.Outcome State Fault Refusal :=
  .next (s.tally .recallRead t).settle

/-- The tally of a RECALL_ALL (R30 to R35, R93, R110, R136). -/
def execRecallAllTally (t : Tally) (s : State) : Host.Outcome State Fault Refusal :=
  .next (s.tally .recallAll t).settle

/-- The tally of a DATA (R30 to R32, R37, R94 to R97, R134). -/
def execDataTally (t : Tally) (s : State) : Host.Outcome State Fault Refusal :=
  .next (s.tally .data t).settle

/-- The tally of a JOIN (R30 to R32, R44 to R46). -/
def execJoinTally (t : Tally) (s : State) : Host.Outcome State Fault Refusal :=
  .next (s.tally .join t).settle

/-- The tally of a READY (R30 to R32, R47, R48). -/
def execReadyTally (t : Tally) (s : State) : Host.Outcome State Fault Refusal :=
  .next (s.tally .ready t).settle

/-- The tally of a LEAVE (R30 to R32, R53). -/
def execLeaveTally (t : Tally) (s : State) : Host.Outcome State Fault Refusal :=
  .next (s.tally .leave t).settle

/-- The tally of a tenure of unassigned kind (R31, R180). -/
def execUnassignedKindTally (t : Tally) (s : State) : Host.Outcome State Fault Refusal :=
  .next (s.tally .unassigned t).settle

end Sys2Proof.Machine
end

