-- ==== Sys2Proof/Machine/StationEvents.lean ====
section
/-! DEFINITION. The commands of the timebase and the bank, the station's own follow-up steps, and the
resets. -/
namespace Sys2Proof.Machine

/-- The data deadline of the record in position p expires (R99). -/
def execDataDeadlineExpiry (p : RecordTag) (s : State) : Host.Outcome State Fault Refusal :=
  .next (s.deadlineExpiry p).settle

/-- The settle timer expires (R49). -/
def execSettleTimerExpiry (s : State) : Host.Outcome State Fault Refusal :=
  .next s.settleExpiry.settle

/-- The oldest supply read ends (R119, R132, R133). -/
def execSupplyReadEnd (err : Bool) (s : State) : Host.Outcome State Fault Refusal :=
  .next (s.supplyReadEnd err).settle

/-- The oldest local read of home memory ends (R119, R141). -/
def execLocalHomeReadEnd (err : Bool) (s : State) : Host.Outcome State Fault Refusal :=
  .next (s.localReadEnd err).settle

/-- The oldest write of a local request ends (R119, R142). -/
def execMemoryWriteEnd (s : State) : Host.Outcome State Fault Refusal :=
  .next s.memoryWriteEnd.settle

/-- The operation run under way ends (R151). -/
def execOperationRunEnd (err : Bool) (s : State) : Host.Outcome State Fault Refusal :=
  .next (s.runEnd err).settle

/-- A free pending position is handed to the head of the grant order (R85). -/
def execPositionGrant (s : State) : Host.Outcome State Fault Refusal :=
  .next s.grantOne.settle

/-- A request held back is handled anew (R40, R67, R77, R138, R140). -/
def execWaitingRequestResumed (t : Tag) (s : State) : Host.Outcome State Fault Refusal :=
  .next (s.resume t).settle

/-- The drain of LEAVING is complete (R51). -/
def execDrainComplete (s : State) : Host.Outcome State Fault Refusal :=
  .next s.drainEnd.settle

/-- Station reset (R18, R39). -/
def execStationReset (s : State) : Host.Outcome State Fault Refusal :=
  .next s.resetStation

/-- Power-on reset, with the levels of SN0 to SN3 (R38). -/
def execPowerOnReset (sn : BitVec 4) (s : State) : Host.Outcome State Fault Refusal :=
  .next (s.resetPower sn)

end Sys2Proof.Machine
end

