-- ==== Sys2Proof/Machine/Dispatch.lean ====
section
/-! DEFINITION. One arm for each command: the meaning it has. -/
namespace Sys2Proof.Machine

def exec (i : Instr) (s : State) : Host.Outcome State Fault Refusal :=
  match i with
  | .read a count => Sys2Proof.Machine.execRead a count s
  | .write a count enables words => Sys2Proof.Machine.execWrite a count enables words s
  | .condStore a t v sense => Sys2Proof.Machine.execCondStore a t v sense s
  | .accumulate p x y variant => Sys2Proof.Machine.execAccumulate p x y variant s
  | .push d mark count values => Sys2Proof.Machine.execPush d mark count values s
  | .pop d count => Sys2Proof.Machine.execPop d count s
  | .flushLine a => Sys2Proof.Machine.execFlushLine a s
  | .discardLine a => Sys2Proof.Machine.execDiscardLine a s
  | .repairLine a => Sys2Proof.Machine.execRepairLine a s
  | .flushAll => Sys2Proof.Machine.execFlushAll s
  | .apertureRead offset => Sys2Proof.Machine.execApertureRead offset s
  | .apertureWrite offset w => Sys2Proof.Machine.execApertureWrite offset w s
  | .join => Sys2Proof.Machine.execJoin s
  | .leave => Sys2Proof.Machine.execLeave s
  | .ackFault => Sys2Proof.Machine.execAckFault s
  | .ackMembership => Sys2Proof.Machine.execAckMembership s
  | .unknownRequestKind code => Sys2Proof.Machine.execUnknownRequestKind code s
  | .completionTake => Sys2Proof.Machine.execCompletionTake s
  | .contentionRound others void => Sys2Proof.Machine.execContentionRound others void s
  | .publication pub => Sys2Proof.Machine.execPublication pub s
  | .fetchTally t => Sys2Proof.Machine.execFetchTally t s
  | .fetchOwnTally t => Sys2Proof.Machine.execFetchOwnTally t s
  | .claimTally t => Sys2Proof.Machine.execClaimTally t s
  | .readDirectTally t => Sys2Proof.Machine.execReadDirectTally t s
  | .writeThroughTally t => Sys2Proof.Machine.execWriteThroughTally t s
  | .operateTally t => Sys2Proof.Machine.execOperateTally t s
  | .returnTally t => Sys2Proof.Machine.execReturnTally t s
  | .releaseTally t => Sys2Proof.Machine.execReleaseTally t s
  | .recallReadTally t => Sys2Proof.Machine.execRecallReadTally t s
  | .recallAllTally t => Sys2Proof.Machine.execRecallAllTally t s
  | .dataTally t => Sys2Proof.Machine.execDataTally t s
  | .joinTally t => Sys2Proof.Machine.execJoinTally t s
  | .readyTally t => Sys2Proof.Machine.execReadyTally t s
  | .leaveTally t => Sys2Proof.Machine.execLeaveTally t s
  | .unassignedKindTally t => Sys2Proof.Machine.execUnassignedKindTally t s
  | .dataDeadlineExpiry p => Sys2Proof.Machine.execDataDeadlineExpiry p s
  | .settleTimerExpiry => Sys2Proof.Machine.execSettleTimerExpiry s
  | .supplyReadEnd err => Sys2Proof.Machine.execSupplyReadEnd err s
  | .localHomeReadEnd err => Sys2Proof.Machine.execLocalHomeReadEnd err s
  | .memoryWriteEnd => Sys2Proof.Machine.execMemoryWriteEnd s
  | .operationRunEnd err => Sys2Proof.Machine.execOperationRunEnd err s
  | .positionGrant => Sys2Proof.Machine.execPositionGrant s
  | .waitingRequestResumed t => Sys2Proof.Machine.execWaitingRequestResumed t s
  | .drainComplete => Sys2Proof.Machine.execDrainComplete s
  | .stationReset => Sys2Proof.Machine.execStationReset s
  | .powerOnReset sn => Sys2Proof.Machine.execPowerOnReset sn s

end Sys2Proof.Machine
end

