-- ==== Sys2Proof/Machine/Step.lean ====
section
/-! DEFINITION. One step of the block: the command at the front of its queue. -/
namespace Sys2Proof.Machine

/-- One step: the front command of the queue is carried out on the state with the queue's rest; with
no command the block idles (log entry 3). -/
def step (s : State) : Host.Outcome State Fault Refusal :=
  match s.pending with
  | [] => .next s
  | c :: rest => exec c { s with pending := rest }

/-- The state with the command that a table word spells at the front of its queue; the table gives no
row bits, so no word spells one (log entry 21). -/
def State.withFetchWord (s : State) (nbits w : Nat) : State :=
  match decodeTableWord nbits w with
  | some c => { s with pending := c :: s.pending }
  | none => s

/-- The state with the request that words at the local port spell last in the queue (11_formats.md section
11.2, R181); words that spell none leave it. -/
def State.withPortWords (s : State) (ws : List Word) : State :=
  match decodePort ws with
  | some c => { s with pending := s.pending ++ [c] }
  | none => s

end Sys2Proof.Machine
end

