-- ==== Sys2Proof/Safety.lean ====
section
/-! DEFINITION. What holds of the station between steps, and the words in which claims about a step are
made: what a step leaves as it was, when a request is served, when a tenure stands at its tally. -/
namespace Sys2Proof.Machine

/-! ### What holds between steps -/

/-- The home memory, the copy table and the loan table are in canonical form, so that equal contents
are equal data. -/
def State.canonical (s : State) : Prop :=
  Memory.wf s.bank.mem ∧ tableWf slotDefault s.copy.slots ∧ tableWf loanDefault s.loans

/-- The fault record holds at most two notices (R173). -/
def State.faultsBounded (s : State) : Prop := s.faults.length ≤ 2

/-- The membership set holds this station exactly when it is SETTLING, MEMBER or LEAVING, and is empty
in the other states (R41); the awaited set is a part of it, not empty in SETTLING and empty in every
other state, and the settle timer runs in SETTLING alone (R48, R49); the tenures of others that the bus
interface has under way carry another publisher; and in UNJOINED the window table is not frozen (R16). -/
def State.membershipLaw (s : State) : Prop :=
  (if s.state.replies then inSet s.members.present s.number = true else s.members.present = 0) ∧
  (s.members.awaited &&& ~~~s.members.present = 0) ∧
  (if s.state = .settling then s.members.awaited ≠ 0 ∧ s.members.timer = true
    else s.members.awaited = 0 ∧ s.members.timer = false) ∧
  (match s.bus.phase with
    | .tenure pub none _ _ => pub.publisher ≠ s.number
    | _ => True) ∧
  (s.state = .unjoined → s.decoder.frozen = false)

/-- In UNJOINED nothing of the pool remains (R39, R173): no record, reserve or fence, no supply and no home
queue entry, no ready entry, no flush walk, no operation run and no access held at the bank; an access still
under way there is for nobody's result, and of the requests taken only the command stream's are open. -/
def State.unjoinedLaw (s : State) : Prop :=
  s.state = .unjoined →
    (∀ p : RecordTag, s.positions[p] = .free) ∧ s.supply = SupplyQueue.reset ∧
    s.homeQueue = HomeQueue.reset ∧ s.members.ready = [] ∧ s.copy.walk = none ∧ s.bank.run = none ∧
    s.bank.held = [] ∧ (∀ a ∈ s.bank.inFlight, a.orphaned = a) ∧
    ∀ t ∈ s.port.taken, poolProgress (s.progress t) = false

/-- What stands while a tenure is under way. Every record is of a line kind (R83). A supply entry, or a home queue
entry, is reserved only in a station that takes part, for the line tenure of another station that is under way,
and at most one of each (R116, R125); the home queue entry only for a line homed here. The exhaustion recall that
the bus interface has noted with a tenure is a RECALL_ALL record that names no slot and has not been published
(R126). -/
def State.tenureLaw (s : State) : Prop :=
  (∀ p r, s.recordAt p = some r → lineKind r.kind = true) ∧
  (∀ (e : Fin 4) x k l g, s.supply.entries[e] = .reserved x k l g → s.state.replies = true ∧
    (∃ pub drove z, s.bus.phase = .tenure pub none drove z ∧ lineKind pub.body.kind = true) ∧
    ∀ (e' : Fin 4) x' k' l' g', s.supply.entries[e'] = .reserved x' k' l' g' → e' = e) ∧
  (∀ (h : Fin 8) x l g, s.homeQueue.entries[h] = .reserved x l g → s.state.replies = true ∧
    (∃ pub drove z, s.bus.phase = .tenure pub none drove z ∧ lineKind pub.body.kind = true ∧
      (s.homedHere pub.line).isSome = true) ∧
    ∀ (h' : Fin 8) x' l' g', s.homeQueue.entries[h'] = .reserved x' l' g' → h' = h) ∧
  ∀ pub own drove p, s.state.replies = true → s.bus.phase = .tenure pub own drove (some p) → own = none ∧
    ∃ r, s.recordAt p = some r ∧ r.kind = .recallAll ∧ r.payload = .exhausted ∧ r.slot = none ∧
      r.phase = .waitingBus

/-- No offer of an unfinished step stands between steps (R21). -/
def State.offersSettled (s : State) : Prop := s.bus.fresh = []

/-- The changes of the station state that one command but a reset may make (R39). -/
def stateChanges : List (StationState × StationState) :=
  [(.unjoined, .joining), (.joining, .unjoined), (.joining, .settling), (.joining, .member),
   (.settling, .member), (.member, .leaving), (.leaving, .member), (.leaving, .unjoined)]

/-! ### What a step leaves as it was -/

/-- Number, station state, decoder, reference number, bus phase, membership and fault record are the
same. -/
def State.sameStation (s u : State) : Prop :=
  u.number = s.number ∧ u.state = s.state ∧ u.decoder = s.decoder ∧
  u.bus.reference = s.bus.reference ∧ u.bus.phase = s.bus.phase ∧
  u.members.present = s.members.present ∧ u.members.awaited = s.members.awaited ∧
  u.members.timer = s.members.timer ∧ u.members.changed = s.members.changed ∧ u.faults = s.faults

/-- Every byte of the home memory reads as before. -/
def State.sameMemory (s u : State) : Prop := ∀ a, readByte u.bank.mem a = readByte s.bank.mem a

/-- The bank's accesses, the supply queue and the home queue are the same. -/
def State.sameQueues (s u : State) : Prop :=
  u.bank.run = s.bank.run ∧ u.bank.held = s.bank.held ∧ u.bank.inFlight = s.bank.inFlight ∧
  u.supply = s.supply ∧ u.homeQueue = s.homeQueue

/-- Every copy slot is the same. -/
def State.sameCopies (s u : State) : Prop := ∀ k, u.slotAt k = s.slotAt k

/-- The copy slots of other sets are the same, and those of the set that slot k lies in but for k
itself keep all but their recency rank (R62). -/
def State.sameCopiesBut (s u : State) (k : Nat) : Prop :=
  ∀ j, j ≠ k →
    (u.slotAt j).line = (s.slotAt j).line ∧ (u.slotAt j).state = (s.slotAt j).state ∧
    (u.slotAt j).dirty = (s.slotAt j).dirty ∧ (u.slotAt j).lost = (s.slotAt j).lost ∧
    (u.slotAt j).words = (s.slotAt j).words ∧ (j ∉ slotMates k → (u.slotAt j).rank = (s.slotAt j).rank)

/-- The local request queue's entries are the same but for tag t and for the FLUSH_ALL whose walk the
end of a step may complete (R80). -/
def State.sameEntriesBut (s u : State) (t : Tag) : Prop :=
  ∀ v, v ≠ t → (∀ w, s.copy.walk = some w → w.tag ≠ v) → u.entry v = s.entry v

/-! ### Requests -/

/-- The request that a command presents at the port (R161); none for the other commands. -/
def requestOf : Instr → Option Request
  | .read a n => some (.read a n)
  | .write a n en ws => some (.write a n en ws)
  | .condStore a t v sense => some (.operation (.condStore a t v sense))
  | .accumulate p x y variant => some (.operation (.accumulate p x y variant))
  | .push d mark n vs => some (.operation (.push d mark n vs))
  | .pop d n => some (.operation (.pop d n))
  | .flushLine a => some (.flushLine a)
  | .discardLine a => some (.discardLine a)
  | .repairLine a => some (.repairLine a)
  | .flushAll => some .flushAll
  | .apertureRead o => some (.apertureRead o)
  | .apertureWrite o w => some (.apertureWrite o w)
  | .join => some .join
  | .leave => some .leave
  | .ackFault => some .ackFault
  | .ackMembership => some .ackMembership
  | .unknownRequestKind code => some (.unknown code)
  | _ => none

/-- The command that carries a pool operation (R161). -/
def operationCommand : PoolOp → Instr
  | .condStore a t v sense => .condStore a t v sense
  | .accumulate p x y variant => .accumulate p x y variant
  | .push d mark n vs => .push d mark n vs
  | .pop d n => .pop d n

/-- A command that is a reset. -/
def isReset : Instr → Bool
  | .stationReset | .powerOnReset _ => true
  | _ => false

/-- What the request of a tag came to: its completion, or the outcome that waits in the command stream
for the completions of earlier members (R163). -/
def State.outcome (s : State) (t : Tag) : Option (Status × List Word) :=
  match s.entry t with
  | .done st ws => some (st, ws)
  | .opened _ (.stream o) => o
  | _ => none

/-- No flush walk runs for tag t (R80). -/
def State.walkApart (s : State) (t : Tag) : Prop := ∀ w, s.copy.walk = some w → w.tag ≠ t

/-- No open request holds back another one on the line (R67, R84, R140). -/
def State.lineFree (s : State) (l : LineAddr) : Bool :=
  s.port.taken.all fun u =>
    match s.entry u with
    | .opened r p => !(p.unplaced && requestLine r = some l)
    | _ => true

/-- The port takes the pool request r now, with tag t, and gives it its route with resolution res: the
station is MEMBER, the window checks pass, the window is not PRIVATE, nothing on the line is ahead of it,
and no position is kept in reserve for its tag (R10, R12, R40, R82, R160, R162). -/
def State.serves (s : State) (t : Tag) (r : Request) (res : Resolved) : Prop :=
  s.freeTag = some t ∧ s.state = .member ∧ s.decoder.frozen = true ∧
  (∃ a, requestAddress r = some a ∧ s.windowCheck r a = .ok res) ∧
  res.entry.mode ≠ .priv ∧ s.lineFree res.line = true ∧ s.reservedFor (.head t) = none

/-- The port takes the pool request r at address a now, with tag t, in a state in which it serves PRIVATE lines,
and the resolution is in a PRIVATE window (R10, R12, R40, R160, R162). -/
def State.servesPrivate (s : State) (t : Tag) (r : Request) (a : Word) (res : Resolved) : Prop :=
  s.freeTag = some t ∧ s.walkApart t ∧ s.state ∈ [StationState.joining, .settling, .member, .leaving] ∧
  s.decoder.frozen = true ∧ s.windowCheck r a = .ok res ∧ res.entry.mode = .priv

/-- No local request is held back on the line, and none stands in the home queue for it (R67, R138). -/
def State.quiet (s : State) (l : LineAddr) : Prop :=
  (∀ t r, s.entry t = .opened r .line → requestLine r ≠ some l) ∧
  ∀ (e : Fin 8) l' t c, s.homeQueue.entries[e] = .request l' t c → l' ≠ l

/-- No local request waits on the record but its own waiting tags: its line is quiet and no miss waits for its
slot. When it closes, nothing is taken up (R76, R102). -/
def State.nothingWaits (s : State) (r : Record) : Prop :=
  s.quiet r.line ∧ ∀ k, r.slot = some k → s.successorOf k = none

/-- No local request waits for the station to be MEMBER (R40). -/
def State.noneWaits (s : State) : Prop := ∀ t, s.progress t ≠ some .waitsMember

/-- The request waits for the station to be MEMBER, in the order taken, with a line of its own (R40). -/
def State.awaitsMember (s : State) (t : Tag) : Prop :=
  ∃ r a res, s.entry t = .opened r .waitsMember ∧ t ∈ s.port.taken ∧ requestAddress r = some a ∧
    s.resolve a.toNat = some res ∧ s.homeOf t = none

/-- The local request r, taken with tag t, with resolution res, is the head of the line in home queue entry e and waits
for the line's recall (R135, R138); the requests held back have no home queue entry. -/
def State.headWaits (s : State) (l : LineAddr) (e : Fin 8) (t : Tag) (r : Request) (res : Resolved) : Prop :=
  s.homeHead l = some e ∧ s.homeOf t = some e ∧ s.homeQueue.entries[e] = .request l t .waitingRecall ∧
  (∃ p, s.entry t = .opened r p) ∧ t ∈ s.port.taken ∧
  (∃ a, requestAddress r = some a ∧ s.resolve a.toNat = some res ∧ res.line = l) ∧ ∀ x rq, s.entry x = .opened rq .line → s.homeOf x = none

/-- No way of the line's set is VOID, and way k has the highest rank of those eligible as victims: READ ways, and
HELD ways of present homes (R75). -/
def State.outranks (s : State) (l : LineAddr) (k : Nat) : Prop :=
  k ∈ slotsOf l ∧ (∀ j, j ∈ slotsOf l → (s.slotAt j).state ≠ .void) ∧
  ∀ j, j ∈ slotsOf l → j ≠ k →
    (s.slotAt j).state = .read ∨
      (s.slotAt j).state = .held ∧ s.homePresent (s.slotAt j).line = true →
    (s.slotAt j).rank < (s.slotAt k).rank

/-- The record in position p is the only one of the line (R84). -/
def State.onlyRecord (s : State) (p : RecordTag) (l : LineAddr) : Prop :=
  ∀ q r, s.recordAt q = some r → r.line = l → q = p

/-- The request is a WRITE. -/
def isWrite : Request → Bool
  | .write .. => true
  | _ => false

/-- The words of a line after the WRITEs among the requests, one after another (R72). -/
def lineAfter (l : Line) (rs : List Request) : Line :=
  rs.foldl (fun l r => if isWrite r then mergeLine l (requestPatch r).1 (requestPatch r).2 else l) l

/-- The line of a resolution is copied here, not homed here (R9, R10). -/
def Resolved.copied (res : Resolved) : Prop :=
  res.here = false ∧ (res.entry.mode = .coherentWT ∨ res.entry.mode = .coherentWB)

/-! ### Tenures at their tally -/

/-- The command that is the tally of a tenure of a kind. -/
def tallyOf : Kind → Tally → Instr
  | .fetch => .fetchTally
  | .fetchOwn => .fetchOwnTally
  | .claim => .claimTally
  | .readDirect => .readDirectTally
  | .writeThrough => .writeThroughTally
  | .operate => .operateTally
  | .ret => .returnTally
  | .release => .releaseTally
  | .recallRead => .recallReadTally
  | .recallAll => .recallAllTally
  | .data => .dataTally
  | .join => .joinTally
  | .ready => .readyTally
  | .leave => .leaveTally
  | .unassigned => .unassignedKindTally

/-- A tally as this station reads it: its own position is what it drove (R30). -/
def State.reading (s : State) (k : Kind) (drove : ReplyCode) (t : Tally) : Reading :=
  { kind := k, tally := t.set s.number drove }

/-- The tenure pub is under way and stands at the tally rd in a station that takes part; no station is
found departed, and the reply driven started no recall (R20, R30, R31, R126). -/
def State.atTally (s : State) (pub : Publication) (own : Option Source) (t : Tally) (rd : Reading) : Prop :=
  ∃ drove, s.bus.phase = .tenure pub own drove none ∧ rd = s.reading pub.body.kind drove t ∧
    s.state.replies = true ∧ s.departedAt rd = 0

/-- The stations d depart at the tally of a tenure that has no other effect here (R31, R42, R53): those found
silent at the tally of a tenure of unassigned kind, or the publisher of a LEAVE at whose tally none is. -/
def State.departsAt (s : State) (pub : Publication) (rd : Reading) (d : StationSet) : Prop :=
  (pub.body.kind = .unassigned ∧ d = s.departedAt rd) ∨
  (pub.body = .leave ∧ s.departedAt rd = 0 ∧ rd.silent pub.publisher = false ∧
    inSet s.members.present pub.publisher = true ∧ d = single pub.publisher)

/-- Tag t waits on the record in position p alone: on no other record, in no home queue entry, and not for
the flush walk (R83, R84). -/
def State.waitsOnlyOn (s : State) (t : Tag) (p : RecordTag) : Prop :=
  (∀ q r, s.recordAt q = some r → t ∈ r.tags → q = p) ∧ s.homeOf t = none ∧ s.walkApart t

/-- Slot k is named by no record but that in position p (R83). -/
def State.namedOnlyBy (s : State) (k : Nat) (p : RecordTag) : Prop :=
  ∀ q r, s.recordAt q = some r → r.slot = some k → q = p

/-- Slot k is named by no record (R83). -/
def State.unnamed (s : State) (k : Nat) : Prop := ∀ q r, s.recordAt q = some r → r.slot ≠ some k

/-- The DATA that slot v of station s owes for the tenure pub, field by field (R112, R114). -/
def State.owesFrom (s : State) (pub : Publication) (v : Slot) (d : Supply) : Prop :=
  d.line = pub.line ∧ d.tag = (if pub.body.kind = .writeThrough then 0 else pub.tag) ∧
  d.data.target = (if pub.body.kind = .fetch ∨ pub.body.kind = .fetchOwn then pub.publisher
    else (s.lineHome pub.line).getD pub.publisher) ∧
  d.data.source = s.number ∧ d.data.status = (if v.lost then 2 else 0) ∧
  d.data.dirty = (decide (pub.body.kind = .fetchOwn) && v.dirty) ∧
  d.data.alsoHome = (decide (pub.body.kind = .fetch) && v.dirty || decide (pub.body.kind = .writeThrough)) ∧
  d.data.first = 0 ∧ d.data.count = 16 ∧
  d.data.words = (match pub.body with
    | .writeThrough mask _ en ws => (mergeLine v.words ws (en &&& maskEnables mask)).toList
    | _ => v.words.toList)

/-- The home memory's line i holds the words ws, and every byte outside the line reads as before. -/
def State.lineBecomes (s u : State) (i : Nat) (ws : List Word) : Prop :=
  (∀ b, b < 64 → readByte u.bank.mem (i * 64 + b) = wordByte (ws.getD (b / 4) 0) (b % 4)) ∧
  ∀ x, (∀ b, b < 64 → x ≠ i * 64 + b) → readByte u.bank.mem x = readByte s.bank.mem x

/-- The enabled bytes of the words l are stored at line i of the home memory, and every other byte reads as
before. -/
def State.bytesStored (s u : State) (i : Nat) (l : Line) (en : BitVec 64) : Prop :=
  (∀ b, b < 64 → en.getLsbD b = true →
    readByte u.bank.mem (i * 64 + b) = wordByte (lineWord l (b / 4)) (b % 4)) ∧
  ∀ x, (∀ b, b < 64 → en.getLsbD b = true → x ≠ i * 64 + b) → readByte u.bank.mem x = readByte s.bank.mem x

/-- A due access is an operation run. -/
def Due.isRun : Due → Bool
  | .operate _ => true
  | _ => false

/-- The bytes that a due access stores. -/
def Due.cells : Due → List Host.Cell
  | .store cells | .localStore _ cells => cells
  | .supplyRead .. | .localRead .. | .operate _ => []

/-- The memory once accesses have been carried out one after another (R119, R151). -/
def memoryAfter (m : Memory) (ds : List Due) : Memory := ds.foldl (fun m d => writeCells m d.cells) m

/-- The access under way that a due access becomes when it is issued over the memory m: a read has its words from
m. The line write of a tenure and a run become none (R119). -/
def Due.becomes (d : Due) (m : Memory) (a : Access) : Prop :=
  match d with
  | .supplyRead e i => a = .supplyRead (some e) (readLine m i)
  | .localRead t i first n => ∃ lost, a = .localRead (some t) lost (sliceLine (readLine m i) first n)
  | .localStore t _ => a = .localStore (some t)
  | .store _ | .operate _ => False

/-- A DATA of a whole line with a status that line data has, OK or LOST_DATA (R26, R95). -/
def wholeLineData (d : Data) : Prop :=
  (d.status = 0 ∨ d.status = 2) ∧ d.first = 0 ∧ d.count = 16 ∧ d.words.length = 16

/-- A DATA with an unassigned status code, or with words past the end of its line (R180). -/
def unassignedData (d : Data) : Bool := decide (21 ≤ d.status.toNat) || decide (16 < d.first.toNat + d.count.toNat)

/-- A DATA that line data's target takes as MEMORY_ERROR (R26, R180). -/
def memoryErrorData (d : Data) : Prop := d.status = 3 ∨ unassignedData d = true

/-- A mismatch of the loan's held_by station h at a tally with effect (R129). -/
def loanMismatch (pub : Publication) (rd : Reading) (h : Station) : Prop :=
  (pub.publisher ≠ h ∧ rd.holders = [] ∧
    pub.body.kind ∈ [Kind.fetch, .fetchOwn, .operate, .writeThrough, .recallRead, .recallAll]) ∨
  (pub.publisher = h ∧ pub.body.kind ∈ [Kind.fetch, .fetchOwn, .claim, .operate, .writeThrough])

/-- What a tally with effect leaves of the entry e (R128, R136): the update, and for a recall without a
HOLD the busy mark clear. -/
def LoanEntry.afterTally (e : LoanEntry) (pub : Publication) (rd : Reading) : LoanEntry :=
  { e.updated pub rd with
    busy := e.busy && !(decide (pub.body.kind ∈ [Kind.recallRead, .recallAll]) && rd.holder.isNone) }

/-- The station publishes pub from src, its first reply NONE, or silent while JOINING (R19, R23, R28). -/
def State.published (s u : State) (src : Source) (pub : Publication) : Prop :=
  u.bus.phase = .tenure pub (some src) (replyCode (if s.state = .joining then .silent else .noReply)) none ∧
  u.bus.reference = some s.number ∧ u.bus.contention = none

/-- What record r publishes with line and tag (R25, R89): a body of its kind, with the words of a RETURN's slot
as they stand, a WRITE_THROUGH's keeps-copy flag by the slot of its line as it stands (R70), and what it carries
else (R84). -/
def State.publishes (s : State) (p : RecordTag) (r : Record) (pub : Publication) : Prop :=
  pub.publisher = s.number ∧ pub.line = r.line ∧
  pub.tag = (if r.kind ∈ [Kind.fetch, .fetchOwn, .claim, .readDirect, .operate, .recallRead, .recallAll] then p
    else 0) ∧
  (lineKind r.kind = true → r.kind ≠ .operate → pub.body.kind = r.kind) ∧
  (∀ k, r.kind = .ret → r.slot = some k → pub.body = .ret (s.slotAt k).words) ∧
  (∀ first count, r.kind = .readDirect → r.payload = .words first count → pub.body = .readDirect first count) ∧
  (∀ op, r.kind = .operate → r.payload = .operate op → pub.body = .operate op) ∧
  ∀ mask en ws, r.kind = .writeThrough → r.payload = .writeThrough mask en ws →
    ∃ keeps, pub.body = .writeThrough mask keeps en ws ∧
      (keeps = true ↔ ∃ k, s.slotOf r.line = some k ∧ (s.slotAt k).state = .read)

/-- The tenure is that of the record r in position p, which still stands and seeks its tally (R91). -/
def State.ownRecord (s : State) (pub : Publication) (p : RecordTag) (r : Record) : Prop :=
  s.recordAt p = some r ∧ r.kind = pub.body.kind ∧ r.line = pub.line ∧ r.phase = .waitingBus

end Sys2Proof.Machine
end

