-- ==== Sys2Proof/Certificates/Slice0/Obligations.lean ====
section
/-! DEFINITION. The statements about the station, for the provers: each says what its name says. -/
open Sys2Proof Sys2Proof.Machine

/-! ### The machine as a whole -/

/-- A step carries out the command at the front of the queue on the state with the queue's rest; with no
command waiting the block idles (log entry 3: the model's choice). -/
def Obligations.StepRunsTheFrontCommand : Prop :=
  (∀ (c : Instr) (rest : List Instr) (s : State),
    step { s with pending := c :: rest } = exec c { s with pending := rest }) ∧
  ∀ s : State, s.pending = [] → step s = .next s

/-- Every command, in every state, answers a next state, none stops the model (that a command whose event
cannot occur does so too, leaving the state as it is, is the model's choice, log entry 2); and after it no
offer of the step stands apart from the others (R21). -/
def Obligations.EveryCommandAnswersNext : Prop :=
  ∀ (c : Instr) (s : State), ∃ u, exec c s = .next u ∧ u.offersSettled

/-- No command changes the queue of commands, none but power-on reset the station number (R38), and none
but a reset the window table and the size code outside UNJOINED (R16). -/
def Obligations.QueueNumberAndFrozenTableKept : Prop :=
  ∀ (c : Instr) (s u : State), s.membershipLaw → s.faultsBounded → exec c s = .next u →
    u.pending = s.pending ∧ ((∀ sn, c ≠ .powerOnReset sn) → u.number = s.number) ∧
    (s.state ≠ .unjoined → isReset c = false →
      u.decoder.table = s.decoder.table ∧ u.decoder.sizeCode = s.decoder.sizeCode)

/-- Every step keeps the home memory, the copy table and the loan table in canonical form. -/
def Obligations.StepKeepsCanonical : Prop :=
  ∀ s u : State, s.canonical → step s = .next u → u.canonical

/-- Every step keeps the laws of the membership (R41, R48, R49, R16) and the bound of the fault record
(R173). -/
def Obligations.StepKeepsMembershipLaw : Prop :=
  ∀ s u : State, s.membershipLaw → s.faultsBounded → step s = .next u →
    u.membershipLaw ∧ u.faultsBounded

/-- The state after reset is canonical and satisfies the laws that every step keeps. -/
def Obligations.ResetSatisfiesTheLaws : Prop :=
  State.reset.canonical ∧ State.reset.membershipLaw ∧ State.reset.faultsBounded ∧
    State.reset.offersSettled

/-- The station state changes only as the table of R39 says: by one of its changes, to HALTED from a
state that is neither HALTED nor UNJOINED, or to UNJOINED at a reset. That UNJOINED is not left for HALTED
rests on what every command keeps and reset has: in UNJOINED nothing of the pool remains (R39, R173). -/
def Obligations.StationStateFollowsTable : Prop :=
  (∀ (c : Instr) (s u : State), s.membershipLaw → s.faultsBounded → s.unjoinedLaw → exec c s = .next u →
    (u.state = s.state ∨ (s.state, u.state) ∈ stateChanges ∨
      (u.state = .halted ∧ s.state ≠ .halted ∧ s.state ≠ .unjoined) ∨
      (isReset c = true ∧ u.state = .unjoined)) ∧
    u.unjoinedLaw) ∧
  State.reset.unjoinedLaw

/-! ### Resets, the fault record and the halt -/

/-- Station reset leaves everything as State.reset has it but the number, the home memory and the
accesses the bank carries to their end unused (R18, R38, R39, R63, R119, R171, R179); power-on reset is
a station reset that samples the number from the slot pins (R38). The model's choices: a request that
waits at the port is dropped (log entry 10), a run and the accesses held behind it are given up (log
entry 8). -/
def Obligations.ResetLeavesTheStation : Prop :=
  (∀ s : State, ∃ u, exec .stationReset s = .next u ∧
    u.state = .unjoined ∧ u.number = s.number ∧ u.decoder = Decoder.reset ∧ u.bus = BusInterface.reset ∧
    u.members = Membership.reset ∧ (∀ p : RecordTag, u.positions[p] = .free) ∧
    (∀ k, u.slotAt k = slotDefault k) ∧ u.copy.walk = none ∧ u.supply = SupplyQueue.reset ∧
    (∀ k, u.loanWay k = loanDefault k) ∧ u.homeQueue = HomeQueue.reset ∧ u.port = LocalPort.reset ∧
    u.faults = [] ∧ u.attn = false ∧ u.bank.run = none ∧ u.bank.held = [] ∧
    u.bank.inFlight = s.bank.inFlight.map Access.orphaned ∧ s.sameMemory u) ∧
  ∀ (sn : BitVec 4) (s : State), ∃ u v, exec (.powerOnReset sn) s = .next u ∧
    exec .stationReset s = .next v ∧ u.number.val = sn.toNat ∧ u = { v with number := u.number }

/-- A notice is stored while the record holds fewer than two; the third halts the station and is not
stored (R173). What the halt leaves of every block (R175, R60, R63, R122, R171): nothing of the pool; the
ranks, words, decoder, mark, record and bank contents as they stood; every open entry done. -/
def Obligations.ThirdNoticeHaltsTheStation : Prop :=
  (∀ (s : State) (n : Notice), s.state ≠ .halted →
    (s.faults.length < 2 → s.post n = { s with faults := s.faults ++ [n] }) ∧
    (s.faults.length = 2 → s.post n = s.halt)) ∧
  ∀ s : State, s.canonical →
    s.halt.state = .halted ∧ s.halt.members.present = 0 ∧ s.halt.members.awaited = 0 ∧
    s.halt.members.ready = [] ∧ s.halt.members.timer = false ∧
    s.halt.members.changed = s.members.changed ∧ s.halt.bus.offers = [] ∧
    (∀ p : RecordTag, s.halt.positions[p] = .free) ∧
    (∀ k, s.halt.slotAt k = (s.slotAt k).voided) ∧ s.halt.copy.walk = none ∧
    s.halt.supply = SupplyQueue.reset ∧
    (∀ k, (s.halt.loanWay k).entry = none ∧ (s.halt.loanWay k).rank = (s.loanWay k).rank) ∧
    s.halt.homeQueue = HomeQueue.reset ∧ s.halt.bank.run = none ∧ s.halt.bank.held = [] ∧
    s.halt.decoder = s.decoder ∧ s.halt.faults = s.faults ∧ s.halt.attn = true ∧ s.sameMemory s.halt ∧
    (∀ t r p, t ∈ s.port.taken → s.entry t = .opened r p →
      s.halt.entry t = .done (haltOutcome (some p)).1 (haltOutcome (some p)).2)

/-- ACK_FAULT (R177): OK in every state but HALTED, and the record becomes CLEAR; HALTED in HALTED, and
the record stays. It touches neither the membership-changed mark nor a loss at the home nor a fence, a
later notice is the first of the emptied record, and ACK_MEMBERSHIP does not touch the record. -/
def Obligations.AckFaultEmptiesTheRecord : Prop :=
  ∀ (s : State) (t : Tag), s.freeTag = some t → s.walkApart t →
    (∃ u, exec .ackFault s = .next u ∧
      (s.state ≠ .halted → u.faults = [] ∧ u.outcome t = some (.ok, [])) ∧
      (s.state = .halted → u.faults = s.faults ∧ u.outcome t = some (.halted, [])) ∧
      (s.state ≠ .halted → ∀ n, (u.post n).faults = [n]) ∧
      u.state = s.state ∧ u.members.changed = s.members.changed ∧ u.positions = s.positions ∧
      (s.state ≠ .leaving → u.loans = s.loans) ∧ s.sameMemory u ∧ s.sameQueues u) ∧
    (∃ u, exec .ackMembership s = .next u ∧ u.faults = s.faults)

/-- ACK_MEMBERSHIP clears the membership-changed mark and completes OK; in HALTED it completes HALTED and
changes nothing (R59, R170). ATTN is asserted while a notice is held, the mark is set or the station is
HALTED, and at no other time (R178). -/
def Obligations.AckMembershipClearsTheMark : Prop :=
  (∀ s : State, s.attn = true ↔ s.faults ≠ [] ∨ s.members.changed = true ∨ s.state = .halted) ∧
  ∀ (s : State) (t : Tag), s.freeTag = some t → s.walkApart t →
    ∃ u, exec .ackMembership s = .next u ∧
      (s.state ≠ .halted → u.members.changed = false ∧ u.outcome t = some (.ok, [])) ∧
      (s.state = .halted → u.members.changed = s.members.changed ∧ u.outcome t = some (.halted, [])) ∧
      u.state = s.state ∧ u.decoder = s.decoder ∧ u.members.present = s.members.present ∧
      u.faults = s.faults ∧ u.positions = s.positions ∧ s.sameMemory u ∧ s.sameQueues u

/-! ### The local port -/

/-- A request presented while no entry is free stays presented, without a tag and without effect; one of
a kind the port does not know completes UNSUPPORTED at once, with no other effect (R160). The words of a
request at the port spell its command (R181, section 11.2): the unknown kind for the codes 0 and 17 to 31,
else the kind of the code with the fields it uses; the bits of fields it does not use have no part. -/
def Obligations.FullPortAndUnknownKinds : Prop :=
  (∀ (c : Instr) (r : Request) (s : State), requestOf c = some r → s.freeTag = none →
    ∃ u, exec c s = .next u ∧ u.port.presented = s.port.presented ++ [r] ∧ s.sameStation u ∧
      s.sameMemory u ∧ s.sameQueues u ∧ u.positions = s.positions ∧
      (s.state ≠ .leaving → s.sameCopies u ∧ u.loans = s.loans) ∧
      (∀ t, s.walkApart t → u.entry t = s.entry t)) ∧
  (∀ (code : BitVec 5) (s : State) (t : Tag), s.freeTag = some t → s.state ≠ .halted →
    ∃ u, exec (.unknownRequestKind code) s = .next u ∧ u.entry t = .done .unsupported [] ∧
      s.sameStation u ∧ s.sameMemory u ∧ s.sameQueues u ∧ u.positions = s.positions ∧
      (s.state ≠ .leaving → s.sameCopies u ∧ u.loans = s.loans) ∧ s.sameEntriesBut u t) ∧
  (∀ (w0 w1 : Word) (rest : List Word), w0.toNat % 32 = 0 ∨ 17 ≤ w0.toNat % 32 →
    decodePort (w0 :: w1 :: rest) = some (.unknownRequestKind (BitVec.ofNat 5 w0.toNat))) ∧
  ∀ (w0 w1 : Word) (code : Nat) (n : BitVec 5) (sense : Sense) (variant : Variant),
    code = w0.toNat % 32 → n.toNat = w0.toNat / 2 ^ 8 % 32 →
    sense = (if w0.toNat / 2 ^ 17 % 2 = 0 then .zero else .nonzero) →
    variant = (if w0.toNat / 2 ^ 18 % 4 = 0 then .addSigned else if w0.toNat / 2 ^ 18 % 4 = 1 then
      .addUnsigned else if w0.toNat / 2 ^ 18 % 4 = 2 then .subSigned else .subUnsigned) →
    (code = 1 → decodePort [w0, w1] = some (.read w1 n)) ∧
    (∀ e0 e1 ws, code = 2 → ws.length = n.toNat →
      decodePort (w0 :: w1 :: e0 :: e1 :: ws) = some (.write w1 n (e1 ++ e0) ws)) ∧
    (∀ x y, code = 3 → decodePort [w0, w1, x, y] = some (.condStore w1 x y sense)) ∧
    (∀ x y, code = 4 → decodePort [w0, w1, x, y] = some (.accumulate w1 x y variant)) ∧
    (∀ vs, code = 5 → vs.length = n.toNat →
      decodePort (w0 :: w1 :: vs) = some (.push w1 (decide (w0.toNat / 2 ^ 16 % 2 = 1)) n vs)) ∧
    (code = 6 → decodePort [w0, w1] = some (.pop w1 n)) ∧
    (code = 7 → decodePort [w0, w1] = some (.flushLine w1)) ∧
    (code = 8 → decodePort [w0, w1] = some (.discardLine w1)) ∧
    (code = 9 → decodePort [w0, w1] = some (.repairLine w1)) ∧
    (code = 10 → decodePort [w0, w1] = some .flushAll) ∧
    (code = 11 → decodePort [w0, w1] = some (.apertureRead w1)) ∧
    (∀ x, code = 12 → decodePort [w0, w1, x] = some (.apertureWrite w1 x)) ∧
    (code = 13 → decodePort [w0, w1] = some .join) ∧
    (code = 14 → decodePort [w0, w1] = some .leave) ∧
    (code = 15 → decodePort [w0, w1] = some .ackFault) ∧
    (code = 16 → decodePort [w0, w1] = some .ackMembership)

/-- A request with a pool address completes NOT_MEMBER while the table is not frozen, and with the status
of the first window check it fails while it is frozen; it does nothing else: no slot, record, loan entry or
memory word changes (R6, R12, R40, R162). -/
def Obligations.PoolRequestsAreCheckedFirst : Prop :=
  ∀ (c : Instr) (r : Request) (a : Word) (st : Status) (s : State) (t : Tag),
    requestOf c = some r → requestAddress r = some a → s.freeTag = some t → s.state ≠ .halted →
    (s.decoder.frozen = false ∧ st = .notMember ∨
      s.decoder.frozen = true ∧ s.windowCheck r a = .error st) →
    ∃ u, exec c s = .next u ∧ u.entry t = .done st [] ∧ s.sameStation u ∧ s.sameMemory u ∧
      s.sameQueues u ∧ u.positions = s.positions ∧
      (s.state ≠ .leaving → s.sameCopies u ∧ u.loans = s.loans) ∧ s.sameEntriesBut u t

/-- In HALTED every request completes HALTED, but an APERTURE_READ, which is served (R171). -/
def Obligations.HaltedStationServesApertureReadsAlone : Prop :=
  ∀ (c : Instr) (r : Request) (s : State) (t : Tag),
    requestOf c = some r → s.freeTag = some t → s.state = .halted → s.walkApart t →
    ∃ u, exec c s = .next u ∧
      u.outcome t = some (match r with
        | .apertureRead o => (.ok, [s.apertureWord o])
        | _ => (.halted, [])) ∧
      s.sameStation u ∧ s.sameMemory u ∧ s.sameQueues u ∧ u.positions = s.positions

/-- APERTURE_READ returns the word of the item at its offset and completes OK in every state; it changes
no item (R167). -/
def Obligations.ApertureReadReturnsTheItem : Prop :=
  ∀ (o : Word) (s : State) (t : Tag), s.freeTag = some t → s.walkApart t →
    ∃ u, exec (.apertureRead o) s = .next u ∧ u.outcome t = some (.ok, [s.apertureWord o]) ∧
      (∀ o', u.apertureWord o' = s.apertureWord o') ∧ s.sameStation u ∧ s.sameMemory u ∧
      s.sameQueues u ∧ u.positions = s.positions

/-- APERTURE_WRITE by item and station state (R168): written and OK, LOCKED, ignored and OK, or HALTED;
a written window entry word is stored in its fields, and no other word changes. -/
def Obligations.ApertureWriteFollowsTheTable : Prop :=
  ∀ (o w : Word) (s : State) (t : Tag), s.freeTag = some t → s.walkApart t →
    ∃ u, exec (.apertureWrite o w) s = .next u ∧
      (s.state = .halted → u.outcome t = some (.halted, []) ∧ u.decoder = s.decoder) ∧
      (s.state ≠ .halted → (itemAt o).writable = false →
        u.outcome t = some (.ok, []) ∧ u.decoder = s.decoder) ∧
      (s.state ≠ .halted → s.state ≠ .unjoined → (itemAt o).writable = true →
        u.outcome t = some (.locked, []) ∧ u.decoder = s.decoder) ∧
      (s.state = .unjoined → (itemAt o).writable = true →
        u.outcome t = some (.ok, []) ∧ u.decoder.frozen = s.decoder.frozen ∧
        (∀ o', itemAt o' ≠ itemAt o → u.apertureWord o' = s.apertureWord o') ∧
        (itemAt o = .sizeCode → u.decoder.sizeCode.toNat = w.toNat % 8) ∧
        (∀ i, itemAt o = .entry i 0 →
          u.decoder.table[i].valid = w.getLsbD 31 ∧ u.decoder.table[i].base.toNat = w.toNat % 2 ^ 16 ∧
          u.decoder.table[i].sizeCode.toNat = w.toNat / 2 ^ 16 % 16 ∧
          u.decoder.table[i].stripeCode.toNat = w.toNat / 2 ^ 24 % 4 ∧
          modeCode u.decoder.table[i].mode = w.toNat / 2 ^ 28 % 4) ∧
        (∀ i, itemAt o = .entry i 1 → ∀ j : Fin 8,
          u.decoder.table[i].stripes[j].val = w.toNat / 2 ^ (4 * j.val) % 16) ∧
        (∀ i, itemAt o = .entry i 2 → u.decoder.table[i].homeBase.toNat = w.toNat % 2 ^ 12) ∧
        (∀ i, itemAt o = .entry i 3 → u.decoder.table[i].writers.toNat = w.toNat % 2 ^ 16)) ∧
      s.sameMemory u ∧ s.sameQueues u ∧ u.positions = s.positions ∧ u.state = s.state

/-- The JOIN command by station state (R43, R169): CONFIG_INVALID with the failing window, or JOINING
with the table frozen, the JOIN offer made and the command outstanding; LOCKED; HALTED. -/
def Obligations.JoinCommandFollowsTheTable : Prop :=
  ∀ (s : State) (t : Tag), s.freeTag = some t → s.walkApart t →
    ∃ u, exec .join s = .next u ∧ s.sameMemory u ∧ s.sameQueues u ∧ u.positions = s.positions ∧
      u.decoder.table = s.decoder.table ∧ u.decoder.sizeCode = s.decoder.sizeCode ∧
      (∀ i, s.state = .unjoined → failingWindow s.number s.decoder.sizeCode s.decoder.table = some i →
        u.outcome t = some (.configInvalid, [BitVec.ofNat 32 i]) ∧ u.state = .unjoined ∧
        u.decoder.frozen = s.decoder.frozen) ∧
      (s.state = .unjoined → failingWindow s.number s.decoder.sizeCode s.decoder.table = none →
        u.state = .joining ∧ u.decoder.frozen = true ∧ Offer.join ∈ u.bus.offers ∧
        u.entry t = .opened .join (.stream none)) ∧
      (s.state ≠ .unjoined → s.state ≠ .halted → u.outcome t = some (.locked, []) ∧ s.sameStation u) ∧
      (s.state = .halted → u.outcome t = some (.halted, []) ∧ s.sameStation u)

/-- The LEAVE command (R50): in MEMBER it completes RETAINED_LINES with the count of HELD and EVICTING
slots of absent homes when there are any, and nothing else changes; when there are none the station
enters LEAVING, its drain begins (no READ copy remains) and the command stays in the queue. In UNJOINED,
JOINING, SETTLING and LEAVING it completes NOT_MEMBER, in HALTED HALTED. -/
def Obligations.LeaveCommandFollowsTheRule : Prop :=
  ∀ (s : State) (t : Tag), s.canonical → s.freeTag = some t → s.walkApart t →
    ∃ u, exec .leave s = .next u ∧
      (s.state = .member → 0 < s.retained →
        u.outcome t = some (.retainedLines, [BitVec.ofNat 32 s.retained]) ∧ s.sameStation u ∧
        s.sameMemory u ∧ s.sameQueues u ∧ u.positions = s.positions ∧ s.sameCopies u ∧
        u.loans = s.loans) ∧
      (s.state = .member → s.retained = 0 → u.state = .leaving ∧
        u.entry t = .opened .leave (.stream none) ∧ ∀ k, (u.slotAt k).state ≠ .read) ∧
      (s.state ≠ .member → s.state ≠ .halted → u.outcome t = some (.notMember, []) ∧ s.sameStation u) ∧
      (s.state = .halted → u.outcome t = some (.halted, []) ∧ s.sameStation u)

/-- The local processor takes the offered completion (R164): its entry becomes free and the next
completion is offered; with a request waiting at the port, that request is taken (R160). -/
def Obligations.TakingACompletionFreesItsEntry : Prop :=
  ∀ (s : State) (t : Tag) (ts : List Tag), s.port.completions = t :: ts →
    ∃ u, exec .completionTake s = .next u ∧
      (s.port.presented = [] → u.entry t = .free ∧ ts <+: u.port.completions ∧ s.sameStation u ∧
        s.sameMemory u ∧ s.sameQueues u ∧ u.positions = s.positions ∧ s.sameEntriesBut u t) ∧
      (∀ r rs, s.port.presented = r :: rs →
        u = (State.present { s with port := { s.port with
          entries := s.port.entries.set t .free, completions := ts, presented := rs } } r).settle)

/-! ### The window decoder and the pool operations -/

/-- A table that passes the checks of the JOIN command has at most one valid window for an address, so
that every address resolves one way (R14, R6). With k the address's line offset, the home in a window that is
not PRIVATE is stripe station k mod n and the home line index the home base's plus k / n; in a PRIVATE window the
home is this station and the index the home base's plus k (R7). -/
def Obligations.AddressesResolveOneWay : Prop :=
  (∀ (self : Station) (code : BitVec 3) (t : WindowTable), failingWindow self code t = none →
    ∀ (i j : Station) (a : Nat), windowContains t[i] a = true → windowContains t[j] a = true → i = j) ∧
  ∀ (s : State) (i : Station) (a : Nat) (k : Nat), findWindow s.decoder.table a = some i →
    k = (a - s.decoder.table[i].base.toNat * 65536) / 64 →
    ∃ res, s.resolve a = some res ∧ res.window = i ∧ res.entry = s.decoder.table[i] ∧
      res.line.toNat = a / 64 % 2 ^ 26 ∧ res.word = a % 64 / 4 ∧
      (s.decoder.table[i].mode = .priv →
        res.home = s.number ∧ res.index = s.decoder.table[i].homeBase.toNat * 1024 + k) ∧
      (s.decoder.table[i].mode ≠ .priv →
        res.home = stripeAt s.decoder.table[i] (k % stripeCount s.decoder.table[i]) ∧
        res.index = s.decoder.table[i].homeBase.toNat * 1024 + k / stripeCount s.decoder.table[i]) ∧
      (res.here = true ↔ res.home = s.number)

/-- COND_STORE (R152): the test is judged on the word at T; when it passes V is written at A and the
status is OK, when it fails nothing is written and the status is COND_FALSE; the result words are those
at A and T before any write. A test that passes sets dirty on a copy, whatever V. -/
def Obligations.CondStoreFollowsItsRule : Prop :=
  (∀ (a t v : Word) (sense : Sense) (e : WindowEntry) (rd : Nat → Word),
    let o := opResult (.condStore a t v sense) e rd
    let passes := match sense with
      | .zero => rd t.toNat = 0
      | .nonzero => rd t.toNat ≠ 0
    o.words = [rd a.toNat, rd t.toNat] ∧
    (passes → o.status = .ok ∧ o.writes = [(a.toNat, v)]) ∧
    (¬ passes → o.status = .condFalse ∧ o.writes = [])) ∧
  (∀ (s : State) (tag : Tag) (k : Nat) (a t v : Word) (sense : Sense) (e : WindowEntry), s.canonical →
    testPasses sense (readCopy (s.slotAt k).words t.toNat) = true →
    ((s.operateCopy tag k (.condStore a t v sense) e).slotAt k).dirty = true)

/-- ACCUMULATE (R153): the pair at P is the high word times 2^32 plus the low; the product of X and Y,
signed or unsigned by the variant, is added or subtracted mod 2^64; the new low word goes to P, the high
to P + 4; the status is OK and the result words are the new low and high words. -/
def Obligations.AccumulateFollowsItsRule : Prop :=
  ∀ (p x y : Word) (variant : Variant) (e : WindowEntry) (rd : Nat → Word),
    let o := opResult (.accumulate p x y variant) e rd
    let old : Int := (rd (p.toNat + 4)).toNat * 2 ^ 32 + (rd p.toNat).toNat
    let new : Int := match variant with
      | .addSigned => old + x.toInt * y.toInt
      | .addUnsigned => old + x.toNat * y.toNat
      | .subSigned => old - x.toInt * y.toInt
      | .subUnsigned => old - x.toNat * y.toNat
    ∃ low high : Word, o.status = .ok ∧ o.words = [low, high] ∧
      o.writes = [(p.toNat, low), (p.toNat + 4, high)] ∧
      (high.toNat * 2 ^ 32 + low.toNat : Int) = new % 2 ^ 64

/-- PUSH and POP (R154 to R156): the first check that fails decides, STACK_BAD, then STACK_LOW or
STACK_HIGH, then STACK_BAD, with the pointer as the result word and nothing written. Else word j from 1 of
a PUSH goes to the pointer less 4j, the mark word first, and the new pointer to D; a POP writes the new
pointer to D and returns it and the words from the old pointer upward. -/
def Obligations.StackOperationsFollowTheirRules : Prop :=
  ∀ (d : Word) (mark : Bool) (n : BitVec 5) (vs : List Word) (e : WindowEntry) (rd : Nat → Word),
    let ptr := rd d.toNat
    let low := (rd (d.toNat + 4)).toNat
    let high := (rd (d.toNat + 8)).toNat
    let bad := ptr.toNat % 4 ≠ 0 ∨ ptr.toNat < low ∨ high < ptr.toNat
    (let o := opResult (.push d mark n vs) e rd
     let k := pushCount mark n.toNat
     let short := ptr.toNat < low + 4 * k
     let outside := ∃ j, 1 ≤ j ∧ j ≤ k ∧ stackPlace e d.toNat (ptr.toNat - 4 * j) = false
     (bad → o.status = .stackBad) ∧
     (¬ bad → short → o.status = .stackLow) ∧
     (¬ bad → ¬ short → outside → o.status = .stackBad) ∧
     (bad ∨ short ∨ outside → o.words = [ptr] ∧ o.writes = []) ∧
     (¬ bad → ¬ short → ¬ outside → o.status = .ok ∧
       o.words = [BitVec.ofNat 32 (ptr.toNat - 4 * k)] ∧
       o.writes = (List.range k).map (fun j =>
         (ptr.toNat - 4 * (j + 1), pushedWord mark vs ptr (j + 1))) ++
           [(d.toNat, BitVec.ofNat 32 (ptr.toNat - 4 * k))])) ∧
    (let o := opResult (.pop d n) e rd
     let short := high < ptr.toNat + 4 * n.toNat
     let outside := ∃ j, j < n.toNat ∧ stackPlace e d.toNat (ptr.toNat + 4 * j) = false
     (bad → o.status = .stackBad) ∧
     (¬ bad → short → o.status = .stackHigh) ∧
     (¬ bad → ¬ short → outside → o.status = .stackBad) ∧
     (bad ∨ short ∨ outside → o.words = [ptr] ∧ o.writes = []) ∧
     (¬ bad → ¬ short → ¬ outside → o.status = .ok ∧
       o.words = BitVec.ofNat 32 (ptr.toNat + 4 * n.toNat) ::
         (List.range n.toNat).map (fun j => rd (ptr.toNat + 4 * j)) ∧
       o.writes = [(d.toNat, BitVec.ofNat 32 (ptr.toNat + 4 * n.toNat))]))

/-! ### Requests on the copy route -/

/-- A READ that hits a READ or HELD copy, or an EVICTING one whose record has no tags, completes with
the slot's words and OK or LOST_DATA by its mark; its way is refreshed, and nothing else of the copy
table changes (R62, R66, R68). -/
def Obligations.ReadHitsTheCopy : Prop :=
  ∀ (s : State) (t : Tag) (a : Word) (n : BitVec 5) (res : Resolved) (k : Nat),
    s.canonical → s.serves t (.read a n) res → res.copied → s.slotlessRecord res.line = false →
    s.slotOf res.line = some k →
    ((s.slotAt k).state = .read ∨ (s.slotAt k).state = .held ∨
      ((s.slotAt k).state = .evicting ∧ ∀ p r, s.recordOf res.line = some (p, r) → r.tags = [])) →
    ∃ u, exec (.read a n) s = .next u ∧
      u.entry t = .done (if (s.slotAt k).lost then .lostData else .ok)
        (sliceLine (s.slotAt k).words (wordIndex a) n.toNat) ∧
      u.slotAt k = { s.slotAt k with rank := 0 } ∧ s.sameCopiesBut u k ∧ s.sameStation u ∧
      s.sameMemory u ∧ s.sameQueues u ∧ u.positions = s.positions ∧ s.sameEntriesBut u t

/-- A WRITE that hits a HELD copy stores its enabled bytes in the slot, makes it dirty, refreshes the way
and completes OK; no byte of the home memory changes (R62, R65, R69). -/
def Obligations.WriteHitsTheHeldCopy : Prop :=
  ∀ (s : State) (t : Tag) (a : Word) (n : BitVec 5) (en : BitVec 64) (ws : List Word) (res : Resolved)
    (k : Nat),
    s.canonical → s.serves t (.write a n en ws) res → res.here = false →
    res.entry.mode = .coherentWB → s.slotlessRecord res.line = false → s.slotOf res.line = some k →
    (s.slotAt k).state = .held →
    ∃ u, exec (.write a n en ws) s = .next u ∧ u.entry t = .done .ok [] ∧
      u.slotAt k = { s.slotAt k with
        words := mergeLine (s.slotAt k).words (requestPatch (.write a n en ws)).1
          (requestPatch (.write a n en ws)).2,
        dirty := true, rank := 0 } ∧ s.sameCopiesBut u k ∧ s.sameStation u ∧
      s.sameMemory u ∧ s.sameQueues u ∧ u.positions = s.positions ∧ s.sameEntriesBut u t

/-- A pool operation that hits a HELD copy is performed on the slot: it completes with the operation's
result on the slot's words, its writes go into the slot, dirty is set when there are any (R146, R147). -/
def Obligations.OperationActsOnTheHeldCopy : Prop :=
  ∀ (s : State) (t : Tag) (op : PoolOp) (res : Resolved) (k : Nat),
    s.canonical → s.serves t (.operation op) res → res.copied → s.slotlessRecord res.line = false →
    s.slotOf res.line = some k → (s.slotAt k).state = .held →
    ∃ u, exec (operationCommand op) s = .next u ∧
      u.entry t = .done
        (lostStatus (s.slotAt k).lost (opResult op res.entry (readCopy (s.slotAt k).words)).status)
        (opResult op res.entry (readCopy (s.slotAt k).words)).words ∧
      u.slotAt k = { s.slotAt k with
        words := writeCopy (s.slotAt k).words (opResult op res.entry (readCopy (s.slotAt k).words)).writes,
        dirty := (s.slotAt k).dirty ||
          !(opResult op res.entry (readCopy (s.slotAt k).words)).writes.isEmpty,
        rank := 0 } ∧ s.sameCopiesBut u k ∧ s.sameStation u ∧
      s.sameMemory u ∧ s.sameQueues u ∧ u.positions = s.positions ∧ s.sameEntriesBut u t

/-- A READ or WRITE that misses, with a position free, takes the VOID way of lowest number, or with none the
READ way that has the highest rank of those eligible, and makes its record in the free position of lowest number:
FETCH for a READ, FETCH_OWN for a WRITE of a COHERENT_WB window (R74, R75, R84). With no VOID way and a HELD way
of a present home of the highest rank, and two positions free, that victim is EVICTING with its RETURN or RELEASE
record, and the other position is kept for the miss, which waits for the way (R75, R76); which of the two
positions is which is the model's choice (log entry 20), and that a request of the set which is due goes first is
its reading of R77 (log entry 1). A WRITE of a COHERENT_WB window that finds a READ copy makes it
UPGRADING with a CLAIM record (R69, R86). The requests that go without a slot make a record naming none: a
READ or WRITE of an UNCACHED line READ_DIRECT or WRITE_THROUGH, a WRITE of a COHERENT_WT line WRITE_THROUGH,
a pool operation off the copy route, or on it without a HELD copy, OPERATE (R70, R87, R146, R148). -/
def Obligations.MissFetchesTheLine : Prop :=
  (∀ (s : State) (t : Tag) (c : Instr) (r : Request) (a : Word) (own : Bool) (res : Resolved) (k : Nat)
    (p : RecordTag),
    s.canonical → requestOf c = some r → requestAddress r = some a →
    ((∃ n, r = .read a n) ∧ own = false ∨
      (∃ n en ws, r = .write a n en ws) ∧ own = true ∧ res.entry.mode = .coherentWB) →
    s.serves t r res → res.copied → s.walkApart t → s.recordOf res.line = none →
    s.slotOf res.line = none → s.setQueued t res.line = false →
    ((slotsOf res.line).find? (fun k => (s.slotAt k).state = .void) = some k ∨
      s.outranks res.line k ∧ (s.slotAt k).state = .read) →
    s.idlePosition = some p →
    ∃ u, exec c s = .next u ∧ u.entry t = .opened r (.onRecord p) ∧
      u.recordAt p = some (newRecord (if own then .fetchOwn else .fetch) (lineOfAddr a) (some k) [t] .none) ∧
      Offer.record p ∈ u.bus.offers ∧
      u.slotAt k = { s.slotAt k with line := lineOfAddr a, state := if own then .owning else .filling,
                                     dirty := false, lost := false, rank := 0 } ∧
      s.sameCopiesBut u k ∧ s.sameStation u ∧ s.sameMemory u ∧ s.sameQueues u ∧
      (∀ q : RecordTag, q ≠ p → u.positions[q] = s.positions[q]) ∧ s.sameEntriesBut u t) ∧
  (∀ (s : State) (t : Tag) (c : Instr) (r : Request) (a : Word) (res : Resolved) (k : Nat)
    (p q : RecordTag),
    s.canonical → requestOf c = some r → requestAddress r = some a →
    (∃ n, r = .read a n) ∨ (∃ n en ws, r = .write a n en ws) ∧ res.entry.mode = .coherentWB →
    s.serves t r res → res.copied → s.walkApart t → s.recordOf res.line = none →
    s.slotOf res.line = none → s.setQueued t res.line = false → s.outranks res.line k →
    (s.slotAt k).state = .held → s.homePresent (s.slotAt k).line = true →
    s.idlePosition = some p → s.freePositionBut p = some q →
    ∃ u, exec c s = .next u ∧ u.entry t = .opened r (.successor k) ∧
      u.recordAt p = some (newRecord (if (s.slotAt k).dirty then .ret else .release) (s.slotAt k).line
        (some k) [] .none) ∧
      u.positions[q] = .reserved (.successor t k) ∧ Offer.record p ∈ u.bus.offers ∧
      u.slotAt k = { s.slotAt k with state := .evicting } ∧ (∀ j, j ≠ k → u.slotAt j = s.slotAt j) ∧
      (∀ z : RecordTag, z ≠ p → z ≠ q → u.positions[z] = s.positions[z]) ∧
      s.sameStation u ∧ s.sameMemory u ∧ s.sameQueues u ∧ s.sameEntriesBut u t) ∧
  (∀ (s : State) (t : Tag) (a : Word) (n : BitVec 5) (en : BitVec 64) (ws : List Word) (res : Resolved)
    (k : Nat) (p : RecordTag),
    s.canonical → s.serves t (.write a n en ws) res → res.here = false → res.entry.mode = .coherentWB →
    s.walkApart t → s.recordOf res.line = none → s.slotOf res.line = some k →
    (s.slotAt k).state = .read → s.idlePosition = some p →
    ∃ u, exec (.write a n en ws) s = .next u ∧ u.entry t = .opened (.write a n en ws) (.onRecord p) ∧
      u.recordAt p = some (newRecord .claim res.line (some k) [t] .none) ∧
      Offer.record p ∈ u.bus.offers ∧ u.slotAt k = { s.slotAt k with state := .upgrading, rank := 0 } ∧
      s.sameCopiesBut u k ∧ s.sameStation u ∧ s.sameMemory u ∧ s.sameQueues u ∧
      (∀ q : RecordTag, q ≠ p → u.positions[q] = s.positions[q]) ∧ s.sameEntriesBut u t) ∧
  ∀ (s : State) (t : Tag) (c : Instr) (r : Request) (res : Resolved) (kind : Kind) (payload : Payload)
    (p : RecordTag),
    requestOf c = some r → s.serves t r res → res.here = false → s.walkApart t →
    s.recordOf res.line = none → s.idlePosition = some p →
    ((∃ a n, r = .read a n ∧ res.entry.mode = .uncached ∧ kind = .readDirect ∧
        payload = .words (BitVec.ofNat 4 (wordIndex a)) n) ∨
      (∃ a n en ws, r = .write a n en ws ∧
        (res.entry.mode = .uncached ∨ res.entry.mode = .coherentWT) ∧ kind = .writeThrough ∧
        payload = .writeThrough (BitVec.ofNat 16 ((2 ^ n.toNat - 1) * 2 ^ wordIndex a))
          (requestPatch r).2 (requestPatch r).1) ∨
      (∃ op, r = .operation op ∧ kind = .operate ∧ payload = .operate (opOperation op) ∧
        (res.entry.mode = .uncached ∨ s.slotOf res.line = none ∨
          ∃ k, s.slotOf res.line = some k ∧ (s.slotAt k).state = .read))) →
    ∃ u, exec c s = .next u ∧ u.entry t = .opened r (.onRecord p) ∧
      u.recordAt p = some (newRecord kind res.line none [t] payload) ∧ Offer.record p ∈ u.bus.offers ∧
      s.sameCopies u ∧ s.sameStation u ∧ s.sameMemory u ∧ s.sameQueues u ∧
      (∀ q : RecordTag, q ≠ p → u.positions[q] = s.positions[q]) ∧ s.sameEntriesBut u t

/-- FLUSH_LINE and DISCARD_LINE (R78, R79) on a line without a slot complete OK; on a READ copy the slot
becomes VOID and they complete OK; on a HELD copy of an absent home FLUSH_LINE completes HOME_ABSENT and
keeps it, DISCARD_LINE voids it and completes OK; on a HELD copy of a present home, with a position
free, the slot is EVICTING with a RETURN record, or a RELEASE one when it is clean or discarded. -/
def Obligations.MaintenanceOfALine : Prop :=
  ∀ (s : State) (t : Tag) (a : Word) (discard : Bool) (res : Resolved) (c : Instr) (r : Request),
    s.canonical → c = (if discard then .discardLine a else .flushLine a) → requestOf c = some r →
    s.serves t r res → res.copied → s.slotlessRecord res.line = false → s.walkApart t →
    ∃ u, exec c s = .next u ∧ s.sameStation u ∧ s.sameMemory u ∧ s.sameQueues u ∧ s.sameEntriesBut u t ∧
      (s.slotOf res.line = none →
        u.entry t = .done .ok [] ∧ s.sameCopies u ∧ u.positions = s.positions) ∧
      (∀ k, s.slotOf res.line = some k →
        (∀ j, j ≠ k → u.slotAt j = s.slotAt j) ∧
        ((s.slotAt k).state = .read →
          u.entry t = .done .ok [] ∧ u.slotAt k = (s.slotAt k).voided ∧ u.positions = s.positions) ∧
        ((s.slotAt k).state = .held → s.homePresent res.line = false → u.positions = s.positions ∧
          (discard = true → u.entry t = .done .ok [] ∧ u.slotAt k = (s.slotAt k).voided) ∧
          (discard = false → u.entry t = .done .homeAbsent [] ∧ u.slotAt k = s.slotAt k)) ∧
        (∀ p, (s.slotAt k).state = .held → s.homePresent res.line = true → s.idlePosition = some p →
          u.entry t = .opened r (.onRecord p) ∧ u.slotAt k = { s.slotAt k with state := .evicting } ∧
          u.recordAt p = some (newRecord (if discard || !(s.slotAt k).dirty then .release else .ret)
            (s.slotAt k).line (some k) [t] .none) ∧ Offer.record p ∈ u.bus.offers))

/-- FLUSH_ALL (R40, R80): OK with a retained count of 0 in JOINING and SETTLING; in MEMBER, with no HELD
slot of a present home and no walk and no need for a position under way, OK with the count of retained
slots. With slots to flush and one position free the walk starts: its first slot in order of set and way is
EVICTING with its RETURN or RELEASE record, and the others stay on its list. The tally of its last record
with effect, no request held back on that record's line, ends the walk, which completes with the count of
retained slots, CONTENDED if one of its records ended so. -/
def Obligations.FlushAllWithNothingToFlush : Prop :=
  (∀ (s : State) (t : Tag), s.freeTag = some t →
    ∃ u, exec .flushAll s = .next u ∧
      (s.state = .joining ∨ s.state = .settling → u.entry t = .done .ok [0] ∧ s.sameStation u ∧
        s.sameMemory u ∧ s.sameQueues u ∧ u.positions = s.positions) ∧
      (s.state = .member → s.copy.walk = none → s.port.taken = [] → s.walkSlots = [] →
        s.members.ready = [] → u.entry t = .done .ok [BitVec.ofNat 32 s.retained] ∧ s.sameStation u ∧
        s.sameMemory u ∧ s.sameQueues u ∧ u.positions = s.positions ∧ s.sameCopies u)) ∧
  (∀ (s : State) (t : Tag) (k : Nat) (ks : List Nat) (p : RecordTag),
    s.canonical → s.freeTag = some t → s.state = .member → s.copy.walk = none → s.port.taken = [] →
    s.members.ready = [] → s.walkSlots = k :: ks → s.freePosition = some p →
    s.freePositionBut p = none →
    ((s.slotAt k).state = .held ∧ s.homePresent (s.slotAt k).line = true ∧
      ∀ j, j < k → ¬ ((s.slotAt j).state = .held ∧ s.homePresent (s.slotAt j).line = true)) ∧
    ∃ u, exec .flushAll s = .next u ∧ u.entry t = .opened .flushAll .walk ∧
      u.copy.walk = some { tag := t, slots := ks, records := [p], contended := false } ∧
      u.slotAt k = { s.slotAt k with state := .evicting } ∧ (∀ j, j ≠ k → u.slotAt j = s.slotAt j) ∧
      u.recordAt p = some (newRecord (if (s.slotAt k).dirty then .ret else .release) (s.slotAt k).line
        (some k) [] .none) ∧
      Offer.record p ∈ u.bus.offers ∧ s.sameStation u ∧ s.sameMemory u ∧ s.sameQueues u ∧
      (∀ q : RecordTag, q ≠ p → u.positions[q] = s.positions[q])) ∧
  ∀ (s : State) (pub : Publication) (p : RecordTag) (r : Record) (k : Nat) (w : Walk) (rq : Request)
    (pr : Progress) (t : Tally) (rd : Reading),
    s.canonical → s.state ≠ .leaving → pub.body.kind = .ret ∨ pub.body.kind = .release →
    s.atTally pub (some (.offer (.record p))) t rd → s.ownRecord pub p r → s.homedHere pub.line = none →
    s.takesEffect pub rd = true → r.slot = some k → r.tags = [] → s.nothingWaits r →
    s.copy.walk = some w → w.slots = [] → w.records = [p] → s.entry w.tag = .opened rq pr →
    ∃ u, exec (tallyOf pub.body.kind t) s = .next u ∧ u.copy.walk = none ∧
      u.slotAt k = (s.slotAt k).voided ∧ u.positions[p] = .free ∧
      u.entry w.tag = .done (if w.contended then .contended else .ok) [BitVec.ofNat 32 u.retained]

/-! ### Requests at the home -/

/-- A READ or pool operation on a home line with no entry in the home queue and no copy abroad that must come
home has its access handed to the bank at once: with no run under way a READ takes its words from the bank, an
operation starts its run (R119, R140, R141, R150, R151); while a run is under way the access is held behind those
that became due before it, and nothing else of the bank changes (R151). No byte of memory changes; an operation's words
are stored when its run ends (the model's choice, log entry 8), and the lost mark that a read or an operation will
report is read when the access is handed to the bank (the model's reading, log entry 29). A request that needs
copies brought home (R135, R140 to R143) takes a free home queue entry as its line's head, the one of lowest number
(the model's choice, log entry 36), and makes its recall in a free position, the line's entry busy: a
READ of a line with a held_by station RECALL_READ; a WRITE or pool operation of a line with a copy abroad,
and a REPAIR_LINE of a lost one, RECALL_ALL. In a PRIVATE window, in JOINING, SETTLING, MEMBER and LEAVING alike, a
READ or pool operation goes to the bank at once, or is held behind the run under way there, and a maintenance
request completes OK (R10, R40, R120). -/
def Obligations.HomeReadsAndOperationsAreIssued : Prop :=
  (∀ (s : State) (t : Tag) (c : Instr) (r : Request) (res : Resolved),
    requestOf c = some r → (∃ a n, r = .read a n) ∨ (∃ op, r = .operation op) →
    s.serves t r res → res.here = true → s.walkApart t → s.homeOf t = none →
    s.homeHas res.line = false → s.recallStands res.line = false →
    recallNeed (s.loanOf res.index) r = none →
    ∃ u, exec c s = .next u ∧ u.entry t = .opened r .bank ∧
      (s.bank.run = none →
        (∀ a n, r = .read a n → u.bank.run = none ∧
          u.bank.inFlight = s.bank.inFlight ++ [.localRead (some t) (s.lineLost res.index)
            (sliceLine (readLine s.bank.mem res.index) (wordIndex a) n.toNat)]) ∧
        (∀ op, r = .operation op → u.bank.inFlight = s.bank.inFlight ∧
          u.bank.run = some { owner := .request t, op := op, line := res.line,
                              lost := s.lineLost res.index, refusal := none })) ∧
      (s.bank.run ≠ none →
        (∀ a n, r = .read a n →
          u.bank = { s.bank with held := s.bank.held ++ [.localRead t res.index (wordIndex a) n.toNat] }) ∧
        (∀ op, r = .operation op →
          u.bank = { s.bank with held := s.bank.held ++ [.operate
            { owner := .request t, op := op, line := res.line, lost := s.lineLost res.index,
              refusal := none }] })) ∧
      s.sameMemory u ∧ s.sameStation u ∧ s.sameCopies u ∧ u.positions = s.positions ∧
      u.supply = s.supply ∧ u.homeQueue = s.homeQueue ∧ s.sameEntriesBut u t) ∧
  (∀ (s : State) (t : Tag) (c : Instr) (r : Request) (res : Resolved) (kind : Kind) (k : Nat)
    (v : LoanEntry) (e : Fin 8) (p : RecordTag),
    s.canonical → requestOf c = some r → s.serves t r res → res.here = true → s.walkApart t →
    s.homeOf t = none → s.homeHas res.line = false → s.recallStands res.line = false →
    s.loanKey res.index = some k → (s.loanWay k).entry = some v →
    ((∃ a n, r = .read a n) ∧ v.heldBy ≠ none ∧ kind = .recallRead ∨
      ((∃ a n en ws, r = .write a n en ws) ∨ ∃ op, r = .operation op) ∧
        (v.holders ≠ 0 ∨ v.heldBy ≠ none) ∧ kind = .recallAll ∨
      (∃ a, r = .repairLine a) ∧ v.lost = true ∧ (v.holders ≠ 0 ∨ v.heldBy ≠ none) ∧ kind = .recallAll) →
    s.freeHome = some e → (∀ x, x ∈ s.port.taken → s.progress x ≠ some .homeFull) →
    s.idlePosition = some p →
    ∃ u, exec c s = .next u ∧ u.entry t = .opened r .homeQueue ∧
      u.homeQueue.entries[e] = .request res.line t .waitingRecall ∧
      u.recordAt p = some (newRecord kind res.line none [] .none) ∧ Offer.record p ∈ u.bus.offers ∧
      u.loanWay k = { s.loanWay k with entry := some { v with busy := true } } ∧
      (∀ j, j ≠ k → u.loanWay j = s.loanWay j) ∧
      (∀ q : RecordTag, q ≠ p → u.positions[q] = s.positions[q]) ∧
      s.sameMemory u ∧ s.sameStation u ∧ s.sameCopies u ∧ u.supply = s.supply ∧ u.bank = s.bank ∧
      s.sameEntriesBut u t) ∧
  ∀ (s : State) (t : Tag) (c : Instr) (r : Request) (a : Word) (res : Resolved),
    requestOf c = some r → requestAddress r = some a → s.servesPrivate t r a res →
    ∃ u, exec c s = .next u ∧ u.positions = s.positions ∧ s.sameStation u ∧
      (s.state ≠ .leaving → s.sameCopies u ∧ u.loans = s.loans) ∧ u.supply = s.supply ∧
      u.homeQueue = s.homeQueue ∧ s.sameEntriesBut u t ∧
      (∀ n, r = .read a n → u.entry t = .opened r .bank ∧ s.sameMemory u ∧
        (s.bank.run = none → u.bank.run = none ∧
          u.bank.inFlight = s.bank.inFlight ++ [.localRead (some t) (s.lineLost res.index)
            (sliceLine (readLine s.bank.mem res.index) (wordIndex a) n.toNat)]) ∧
        (s.bank.run ≠ none →
          u.bank = { s.bank with held := s.bank.held ++ [.localRead t res.index (wordIndex a) n.toNat] })) ∧
      (∀ op, r = .operation op → u.entry t = .opened r .bank ∧ s.sameMemory u ∧
        (s.bank.run = none → u.bank.inFlight = s.bank.inFlight ∧
          u.bank.run = some { owner := .request t, op := op, line := res.line,
                              lost := s.lineLost res.index, refusal := none }) ∧
        (s.bank.run ≠ none →
          u.bank = { s.bank with held := s.bank.held ++ [.operate
            { owner := .request t, op := op, line := res.line, lost := s.lineLost res.index,
              refusal := none }] })) ∧
      (r = .flushLine a ∨ r = .discardLine a ∨ r = .repairLine a →
        u.entry t = .done .ok [] ∧ s.sameMemory u ∧ u.bank = s.bank)

/-- A WRITE of a home line with no entry in the home queue and no copy abroad stores its enabled bytes in the home
memory, and no other byte changes, where no run is under way (R119, R142); during a run it is held behind the
accesses that became due before it, and nothing is stored yet (R151). So does, and is, a WRITE of a PRIVATE line,
in JOINING, SETTLING, MEMBER and LEAVING alike (R40, R120). -/
def Obligations.HomeWriteStoresItsBytes : Prop :=
  (∀ (s : State) (t : Tag) (a : Word) (n : BitVec 5) (en : BitVec 64) (ws : List Word) (res : Resolved)
    (patch : Line × BitVec 64),
    s.canonical → s.serves t (.write a n en ws) res → res.here = true → s.walkApart t →
    s.homeOf t = none → s.homeHas res.line = false → s.recallStands res.line = false →
    recallNeed (s.loanOf res.index) (.write a n en ws) = none → patch = requestPatch (.write a n en ws) →
    ∃ u, exec (.write a n en ws) s = .next u ∧ u.entry t = .opened (.write a n en ws) .bank ∧
      (s.bank.run = none → u.bank.inFlight = s.bank.inFlight ++ [.localStore (some t)] ∧
        s.bytesStored u res.index patch.1 patch.2) ∧
      (s.bank.run ≠ none → u.bank = { s.bank with held := s.bank.held ++
        [.localStore t (lineCells res.index patch.1 patch.2)] }) ∧
      s.sameStation u ∧ s.sameCopies u ∧ u.positions = s.positions ∧ u.supply = s.supply ∧
      u.homeQueue = s.homeQueue ∧ s.sameEntriesBut u t) ∧
  ∀ (s : State) (t : Tag) (a : Word) (n : BitVec 5) (en : BitVec 64) (ws : List Word) (res : Resolved)
    (patch : Line × BitVec 64),
    s.canonical → s.servesPrivate t (.write a n en ws) a res →
    patch = requestPatch (.write a n en ws) →
    ∃ u, exec (.write a n en ws) s = .next u ∧ u.entry t = .opened (.write a n en ws) .bank ∧
      (s.bank.run = none → u.bank.inFlight = s.bank.inFlight ++ [.localStore (some t)] ∧
        s.bytesStored u res.index patch.1 patch.2) ∧
      (s.bank.run ≠ none → u.bank = { s.bank with held := s.bank.held ++
        [.localStore t (lineCells res.index patch.1 patch.2)] }) ∧
      s.sameStation u ∧ (s.state ≠ .leaving → s.sameCopies u ∧ u.loans = s.loans) ∧
      u.positions = s.positions ∧ u.supply = s.supply ∧ u.homeQueue = s.homeQueue ∧ s.sameEntriesBut u t

/-- REPAIR_LINE (R143): on a home line with no entry in the
home queue, no recall under way and no copy abroad of a lost line it completes OK and the line's lost
mark is clear, or its entry freed; no byte of memory changes. -/
def Obligations.RepairClearsTheLostMark : Prop :=
  ∀ (s : State) (t : Tag) (a : Word) (res : Resolved),
    s.canonical → s.serves t (.repairLine a) res → s.homeOf t = none → s.homeHas res.line = false →
    s.recallStands res.line = false → recallNeed (s.loanOf res.index) (.repairLine a) = none →
    ∃ u, exec (.repairLine a) s = .next u ∧ u.entry t = .done .ok [] ∧
      (∀ k e, s.loanKey res.index = some k → (u.loanWay k).entry = some e → e.lost = false) ∧
      s.sameMemory u ∧ s.sameStation u ∧ s.sameCopies u ∧ u.positions = s.positions ∧ s.sameQueues u ∧
      s.sameEntriesBut u t

/-- The oldest access of a local request ends (R119, R141, R142): a read completes with its words, OK
or LOST_DATA, or MEMORY_ERROR with a notice of this station; a write completes OK. The home queue entry
of the request, if it has one, is freed. The result of an access whose tag is gone is not used: nothing
but the access itself goes (R119). -/
def Obligations.LocalAccessEnds : Prop :=
  (∀ (s : State) (t : Tag) (r : Request) (p : Progress) (rest : List Access),
    s.entry t = .opened r p →
    (∀ lost ws err, popAccess asLocalRead s.bank.inFlight = some ((some t, lost, ws), rest) →
      ∃ u, exec (.localHomeReadEnd err) s = .next u ∧
        (err = false → u.entry t = .done (if lost then .lostData else .ok) ws ∧ u.faults = s.faults) ∧
        (err = true → u.entry t = .done .memoryError [] ∧ (s.state ≠ .halted → s.faults.length < 2 →
          u.faults = s.faults ++ [{ kind := .memoryError, station := some s.number,
                                    line := requestLine r, count := none }])) ∧
        (∀ e, s.homeOf t = some e → u.homeQueue.entries[e] = .free) ∧
        (u.state ≠ .halted → u.bank.inFlight = rest) ∧ s.sameMemory u) ∧
    (popAccess asLocalStore s.bank.inFlight = some (some t, rest) →
      ∃ u, exec .memoryWriteEnd s = .next u ∧ u.entry t = .done .ok [] ∧ u.bank.inFlight = rest ∧
        (∀ e, s.homeOf t = some e → u.homeQueue.entries[e] = .free) ∧
        u.faults = s.faults ∧ s.sameMemory u)) ∧
  ∀ (s : State) (rest : List Access) (c : Instr),
    (∃ lost ws err, popAccess asLocalRead s.bank.inFlight = some ((none, lost, ws), rest) ∧
      c = .localHomeReadEnd err) ∨
    (popAccess asLocalStore s.bank.inFlight = some (none, rest) ∧ c = .memoryWriteEnd) →
    ∃ u, exec c s = .next u ∧ u.bank.inFlight = rest ∧ s.sameStation u ∧ s.sameMemory u ∧
      u.positions = s.positions ∧ u.supply = s.supply ∧ u.homeQueue = s.homeQueue ∧
      (∀ t, s.walkApart t → u.entry t = s.entry t)

/-- An operation run ends (R139, R149 to R151, R157). One of a local request without error stores its words,
and no other byte of memory changes, and the request completes with its status and result words; in error it
completes MEMORY_ERROR with one zero word, nothing is written and a notice names this station and the line.
One of an OPERATE entry makes the result DATA ready with the status and words of the operation, of the
home's own refusal, or of the error, and frees the entry. The accesses held during the run are issued when it
ends, in the order they became due (R151): each read has its words from the memory as the run and the writes before
it leave it, and a run among them starts and holds those behind it; a notice that halts the station drops them
(the model's choice, log entry 39). That a run reads, decides and stores when it ends
is the model's choice (log entry 8), and so is that the result of an OPERATE the home refuses is ready at the end
of a run, which performs nothing (log entry 34). -/
def Obligations.OperationRunEnds : Prop :=
  (∀ (s : State) (t : Tag) (rq : Request) (op : PoolOp) (l : LineAddr) (lost : Bool) (res : Resolved)
    (o : OpResult),
    s.canonical → s.bank.run = some { owner := .request t, op := op, line := l, lost := lost, refusal := none } →
    s.request t = some rq → s.resolveLine l = some res →
    o = opResult op res.entry (readHome s.bank.mem res.entry) →
    ∃ u, exec (.operationRunEnd false) s = .next u ∧
      u.entry t = .done (lostStatus lost o.status) o.words ∧
      (s.bank.held = [] → u.bank.run = none ∧
        u.bank.mem = writeCells s.bank.mem (opCells res.entry o.writes) ∧
        (∀ x, (∀ w ∈ o.writes, ∀ i, i < 4 → x ≠ bankAddr res.entry w.1 + i) →
          readByte u.bank.mem x = readByte s.bank.mem x)) ∧
      s.sameStation u ∧ u.positions = s.positions) ∧
  (∀ (s : State) (t : Tag) (rq : Request) (op : PoolOp) (l : LineAddr) (lost : Bool),
    s.bank.run = some { owner := .request t, op := op, line := l, lost := lost, refusal := none } →
    s.request t = some rq → s.state ≠ .halted → s.faults.length < 2 →
    ∃ u, exec (.operationRunEnd true) s = .next u ∧ u.entry t = .done .memoryError [0] ∧
      u.faults = s.faults ++ [{ kind := .memoryError, station := some s.number, line := some l,
                                count := none }] ∧
      (s.bank.held = [] → u.bank.run = none ∧ s.sameMemory u) ∧ u.state = s.state ∧
      u.positions = s.positions) ∧
  (∀ (s : State) (h : Fin 8) (op : PoolOp) (l : LineAddr) (lost : Bool) (refusal : Option Status)
    (x : Station) (g : RecordTag) (o : Operation) (a : Option Station) (f : Bool) (e : Fin 4) (d : Supply)
    (k : Kind) (res : Resolved) (err : Bool) (r : OpResult),
    s.canonical → s.bank.run = some { owner := .operation h, op := op, line := l, lost := lost,
                                      refusal := refusal } →
    s.homeQueue.entries[h] = .operation l x g o a f e →
    s.supply.entries[e] = .awaiting d k → s.resolveLine l = some res → s.state ≠ .halted →
    s.faults.length < 2 → r = opResult op res.entry (readHome s.bank.mem res.entry) →
    ∃ (u : State) (st : Status) (ws : List Word), exec (.operationRunEnd err) s = .next u ∧
      (s.bank.held = [] → u.bank.run = none) ∧ u.homeQueue.entries[h] = .free ∧ e ∈ u.supply.order ∧
      u.supply.entries[e] = .ready { d with data := { d.data with
        status := st.code, first := 0, count := BitVec.ofNat 5 ws.length, words := ws } } ∧
      (∀ z, refusal = some z → st = z ∧ ws = [0] ∧ (s.bank.held = [] → s.sameMemory u) ∧ u.faults = s.faults) ∧
      (refusal = none → err = true → st = .memoryError ∧ ws = [0] ∧ (s.bank.held = [] → s.sameMemory u) ∧
        u.faults = s.faults ++ [{ kind := .memoryError, station := some x, line := some l,
                                  count := none }]) ∧
      (refusal = none → err = false → st = lostStatus lost r.status ∧ ws = r.words ∧
        (s.bank.held = [] → u.bank.mem = writeCells s.bank.mem (opCells res.entry r.writes) ∧
          (∀ y, (∀ w ∈ r.writes, ∀ i, i < 4 → y ≠ bankAddr res.entry w.1 + i) →
            readByte u.bank.mem y = readByte s.bank.mem y)) ∧ u.faults = s.faults) ∧
      u.state = s.state ∧ u.positions = s.positions) ∧
  (∀ (s : State) (r : Run) (err : Bool) (res : Resolved) (o : OpResult) (m : Memory),
    s.bank.run = some r → s.state ≠ .halted → err = false ∨ r.refusal ≠ none ∨ s.faults.length < 2 →
    s.resolveLine r.line = some res → o = opResult r.op res.entry (readHome s.bank.mem res.entry) →
    m = (if err = true ∨ r.refusal ≠ none then s.bank.mem
      else writeCells s.bank.mem (opCells res.entry o.writes)) →
    ∃ u, exec (.operationRunEnd err) s = .next u ∧
      ((∀ d ∈ s.bank.held, d.isRun = false) → u.bank.run = none ∧ u.bank.held = [] ∧
        u.bank.mem = memoryAfter m s.bank.held) ∧
      (∀ xs x ys, s.bank.held = xs ++ .operate x :: ys → (∀ d ∈ xs, d.isRun = false) →
        u.bank.run = some x ∧ u.bank.held = ys ∧ u.bank.mem = memoryAfter m xs) ∧
      (∀ xs d ys, s.bank.held = xs ++ d :: ys → (∀ x ∈ xs, x.isRun = false) → d.isRun = false →
        d.isStore = false → ∃ before a after, u.bank.inFlight = s.bank.inFlight ++ before ++ a :: after ∧
          d.becomes (memoryAfter m xs) a ∧ before.length = (xs.filter fun x => !x.isStore).length)) ∧
  ∀ (s : State) (r : Run), s.bank.run = some r → r.refusal = none → s.state ≠ .halted →
    s.faults.length = 2 →
    ∃ u, exec (.operationRunEnd true) s = .next u ∧ u.state = .halted ∧ u.faults = s.faults ∧
      u.bank.run = none ∧ u.bank.held = [] ∧ s.sameMemory u

/-! ### Contention, publications and replies -/

/-- The contention key (R22): supply above request; within a class ranked above unranked; among ranked
contenders that hold one reference number the first at or after its successor, cyclically, is highest;
among unranked ones the lowest number. -/
def Obligations.ContentionKeyFollowsTheRule : Prop :=
  (∀ c d : Contender, c.supply = true → d.supply = false → contentionKey d < contentionKey c) ∧
  (∀ (c d : Contender) (r : Station), c.supply = d.supply → c.reference = some r → d.reference = none →
    contentionKey d < contentionKey c) ∧
  (∀ (c d : Contender) (r : Station), c.supply = d.supply → c.reference = some r →
    d.reference = some r →
    (contentionKey d < contentionKey c ↔
      (c.number.val + 15 - r.val) % 16 < (d.number.val + 15 - r.val) % 16)) ∧
  (∀ c d : Contender, c.supply = d.supply → c.reference = none → d.reference = none →
    (contentionKey d < contentionKey c ↔ c.number < d.number))

/-- A contention round on a free bus (R21, R23, R24, R89): a station that holds nothing to publish, or
does not take part, presents nothing; one that loses, or whose round ends void, keeps its request; one that wins
publishes and takes its own number as reference number. What it publishes: the DATA of the supply entry that
became ready earliest (R118); with no entry ready the offer that has waited longest (R21), a record's with its
line and tag, the words of a RETURN's slot and the keeps-copy flag of a WRITE_THROUGH decided now (R70, R89), the
JOIN's with the window table, a READY's with the joiner (R27). -/
def Obligations.ContentionRoundOutcome : Prop :=
  ∀ (s : State) (others : List Contender) (void : Bool), s.bus.phase = .free →
    ∃ u, exec (.contentionRound others void) s = .next u ∧ s.sameMemory u ∧ s.sameQueues u ∧
      u.positions = s.positions ∧ u.faults = s.faults ∧ u.state = s.state ∧
      (s.ownClass = none → s.sameStation u ∧ u.bus.contention = none) ∧
      (∀ c, s.ownClass = some c → (void = true ∨ s.winsRound c others = false) →
        s.sameStation u ∧ u.bus.contention = some c) ∧
      (∀ c, s.ownClass = some c → void = false → s.winsRound c others = true →
        (∀ e es d, s.supply.order = e :: es → s.supply.entries[e] = .ready d →
          s.published u (.supply e)
            { publisher := s.number, tag := d.tag, line := d.line, body := .data d.data }) ∧
        (∀ p r os, s.supply.order = [] → s.bus.offers = .record p :: os → s.recordAt p = some r →
          ∃ pub, s.published u (.offer (.record p)) pub ∧ s.publishes p r pub) ∧
        (∀ os, s.supply.order = [] → s.bus.offers = .join :: os →
          s.published u (.offer .join)
            { publisher := s.number, tag := 0, line := 0,
              body := .join s.decoder.sizeCode s.decoder.table }) ∧
        (∀ j os, s.supply.order = [] → s.bus.offers = .ready j :: os →
          s.published u (.offer (.ready j))
            { publisher := s.number, tag := 0, line := 0, body := .ready j }) ∧
        (∀ os, s.supply.order = [] → s.bus.offers = .leave :: os →
          s.published u (.offer .leave) { publisher := s.number, tag := 0, line := 0, body := .leave }))

/-- Another station's publication on a free bus (R19, R20, R23): the tenure is under way, the reference
number is its publisher's number, and a station that takes no part replies silent and does no more. To a
JOIN it replies NONE when the announced image agrees with its own table, else REFUSE (R45, R17). -/
def Obligations.PublicationIsObserved : Prop :=
  ∀ (s : State) (pub : Publication), s.bus.phase = .free → pub.publisher ≠ s.number →
    ∃ u drove x, exec (.publication pub) s = .next u ∧ u.bus.phase = .tenure pub none drove x ∧
      u.bus.reference = some pub.publisher ∧ u.state = s.state ∧ u.number = s.number ∧
      u.decoder = s.decoder ∧ u.members.present = s.members.present ∧ u.faults = s.faults ∧
      s.sameMemory u ∧
      (s.state.replies = false → drove = 0 ∧ x = none ∧ s.sameQueues u ∧ u.positions = s.positions) ∧
      (s.state.replies = true → drove ≠ 0) ∧
      (∀ code image, s.state.replies = true → pub.body = .join code image →
        drove = replyCode
          (if imageAgrees s.decoder.table pub.publisher code image then .noReply else .refuse))

/-- The snoop unit's reply by the slot of the line (R105, R106), for every kind but READ_DIRECT, which names no
copied line: NONE without a slot; COPY for READ and UPGRADING; for HELD and EVICTING RETRY to a CLAIM, else
HOLD with a supply entry reserved, or RETRY when none is free; NONE to RETURN and RELEASE from all of these. For
FILLING and OWNING, whatever the kind, NONE while the record seeks its tally and RETRY while it waits for DATA. No
slot and no position changes (R104). -/
def Obligations.SnoopReplyFollowsTheSlot : Prop :=
  ∀ (s : State) (pub : Publication) (ends : Prop), s.bus.phase = .free → pub.publisher ≠ s.number →
    s.state.replies = true → s.homedHere pub.line = none → s.copyable pub.line = true →
    lineKind pub.body.kind = true → pub.body.kind ≠ .readDirect →
    ends = (pub.body.kind = .ret ∨ pub.body.kind = .release) →
    ∃ u drove, exec (.publication pub) s = .next u ∧ u.bus.phase = .tenure pub none drove none ∧
      s.sameMemory u ∧ u.positions = s.positions ∧ (s.state ≠ .leaving → s.sameCopies u) ∧
      (s.slotOf pub.line = none → drove = replyCode .noReply ∧ u.supply = s.supply) ∧
      (∀ k, s.slotOf pub.line = some k →
        (ends → (s.slotAt k).state ∈ [SlotState.read, .upgrading, .held, .evicting] →
          drove = replyCode .noReply ∧ u.supply = s.supply) ∧
        (¬ ends → (s.slotAt k).state = .read ∨ (s.slotAt k).state = .upgrading →
          drove = replyCode .copy ∧ u.supply = s.supply) ∧
        (¬ ends → (s.slotAt k).state = .held ∨ (s.slotAt k).state = .evicting →
          (pub.body.kind = .claim → drove = replyCode .retry ∧ u.supply = s.supply) ∧
          (pub.body.kind ≠ .claim → s.freeSupply = none →
            drove = replyCode .retry ∧ u.supply = s.supply) ∧
          (∀ e, pub.body.kind ≠ .claim → s.freeSupply = some e →
            drove = replyCode .hold ∧
            u.supply.entries[e] = .reserved pub.publisher pub.body.kind pub.line pub.tag)) ∧
        ((s.slotAt k).state = .filling ∨ (s.slotAt k).state = .owning →
          ∀ p r, s.recordOf pub.line = some (p, r) → u.supply = s.supply ∧
            drove = replyCode (if r.phase = .waitingData then .retry else .noReply)))

/-- The home's reply to a line tenure on a home line (R124, R125): RETRY for a cause of R124; else NONE,
with a supply entry reserved for the kinds that ask data and a home queue entry for an OPERATE, also where a
local request waits for one (the model's choice, log entry 33; which free entry, log entry 36). A FETCH or
FETCH_OWN on a line without an entry whose set has no free way is answered RETRY, and a MEMBER with an
eligible entry in the set and a position free makes a RECALL_ALL of the one of highest rank, busy from then
on (R126); it is offered from the tally on, or discarded at the tally of a silent publisher, which departs
there when it is a member (R31, R32, R42): with nothing waiting on its line, nor on a record that the departure
closes, its position is then free and the entry not busy. Said in states that keep the law of
StepKeepsTheTenureLaw, in which the recall noted with a tenure is such a record. -/
def Obligations.HomeReplyFollowsItsCauses : Prop :=
  (∀ (s : State) (pub : Publication) (i : Nat), s.bus.phase = .free → pub.publisher ≠ s.number →
    s.state.replies = true → s.homedHere pub.line = some i → lineKind pub.body.kind = true →
    ∃ u drove x, exec (.publication pub) s = .next u ∧ u.bus.phase = .tenure pub none drove x ∧
      s.sameMemory u ∧
      (s.homeRetries pub.body.kind pub.line i = true → drove = replyCode .retry ∧ u.supply = s.supply ∧
        u.homeQueue = s.homeQueue) ∧
      (s.homeRetries pub.body.kind pub.line i = false → drove = replyCode .noReply ∧ x = none ∧
        u.positions = s.positions ∧
        (∀ e, homeSupplies pub.body.kind = true → s.freeSupply = some e →
          u.supply.entries[e] = .reserved pub.publisher pub.body.kind pub.line pub.tag) ∧
        (∀ h, pub.body.kind = .operate → s.freeHome = some h →
          u.homeQueue.entries[h] = .reserved pub.publisher pub.line pub.tag))) ∧
  (∀ (s : State) (pub : Publication) (i k : Nat) (e : LoanEntry) (p : RecordTag),
    s.canonical → s.bus.phase = .free → pub.publisher ≠ s.number → s.state = .member →
    s.homedHere pub.line = some i → pub.body.kind = .fetch ∨ pub.body.kind = .fetchOwn →
    s.loanKey i = none → s.freeWays i = [] → k ∈ loanWays i → (s.loanWay k).entry = some e →
    e.busy = false → e.lost = false → s.homeHas e.line = false → s.loanKey e.index = some k →
    (∀ j v, j ∈ loanWays i → j ≠ k → (s.loanWay j).entry = some v → v.busy = false → v.lost = false →
      s.homeHas v.line = false → (s.loanWay j).rank < (s.loanWay k).rank) →
    s.idlePosition = some p →
    ∃ u, exec (.publication pub) s = .next u ∧
      u.bus.phase = .tenure pub none (replyCode .retry) (some p) ∧
      u.recordAt p = some (newRecord .recallAll e.line none [] .exhausted) ∧
      (∀ q : RecordTag, q ≠ p → u.positions[q] = s.positions[q]) ∧
      u.loanWay k = { s.loanWay k with entry := some { e with busy := true } } ∧
      (∀ j, j ≠ k → u.loanWay j = s.loanWay j) ∧ s.sameQueues u ∧ s.sameMemory u) ∧
  (∀ (s : State) (pub : Publication) (p : RecordTag) (r : Record) (i j : Nat) (t : Tally) (rd : Reading),
    s.canonical → s.tenureLaw → s.state.replies = true → pub.body.kind = .fetch ∨ pub.body.kind = .fetchOwn →
    s.bus.phase = .tenure pub none (replyCode .retry) (some p) →
    rd = s.reading pub.body.kind (replyCode .retry) t → s.departedAt rd = 0 →
    s.homedHere pub.line = some i → s.recordAt p = some r → s.homedHere r.line = some j →
    ∃ u, exec (tallyOf pub.body.kind t) s = .next u ∧ u.bus.phase = .free ∧ u.faults = s.faults ∧
      u.state = s.state ∧ (s.quiet r.line → s.sameMemory u) ∧
      (rd.silent pub.publisher = false → u.recordAt p = some r ∧ Offer.record p ∈ u.bus.offers)) ∧
  ∀ (s : State) (pub : Publication) (p : RecordTag) (r : Record) (i j : Nat) (t : Tally) (rd : Reading)
    (d : StationSet),
    s.canonical → s.tenureLaw → s.state.replies = true → pub.body.kind = .fetch ∨ pub.body.kind = .fetchOwn →
    s.bus.phase = .tenure pub none (replyCode .retry) (some p) →
    rd = s.reading pub.body.kind (replyCode .retry) t → rd.silent pub.publisher = true → d = s.departedAt rd →
    (∀ q x, s.recordAt q = some x → s.homedIn d x.line = true ∨ namedIn d x.supplier = true →
      s.nothingWaits x) → (s.state = .settling → d ≠ 0 → s.noneWaits) →
    s.homedHere pub.line = some i → s.recordAt p = some r → s.homedHere r.line = some j → s.quiet r.line →
    ∃ u, exec (tallyOf pub.body.kind t) s = .next u ∧ u.bus.phase = .free ∧ u.positions[p] = .free ∧
      (∀ k v, s.loanKey j = some k → (u.loanWay k).entry = some v → v.busy = false) ∧
      s.sameMemory u ∧ u.members.present &&& d = 0 ∧
      (d = 0 → u.faults = s.faults ∧ u.state = s.state)

/-! ### Tallies of this station's records -/

/-- The tally of an own FETCH, FETCH_OWN, READ_DIRECT or OPERATE that takes effect (R93, R98): the record
waits for DATA from its supplier, the single HOLD of a FETCH or FETCH_OWN else the home, its deadline
running; its offer is gone, and an OPERATE voids the own READ copy of its line. -/
def Obligations.OwnTallyAwaitsData : Prop :=
  ∀ (s : State) (pub : Publication) (p : RecordTag) (r : Record) (h : Station) (t : Tally) (rd : Reading),
    s.canonical → pub.body.kind ∈ [Kind.fetch, .fetchOwn, .readDirect, .operate] →
    s.atTally pub (some (.offer (.record p))) t rd → s.ownRecord pub p r → s.homedHere pub.line = none →
    s.lineHome pub.line = some h → s.takesEffect pub rd = true →
    ∃ u, exec (tallyOf pub.body.kind t) s = .next u ∧
      u.recordAt p = some { r with
        phase := .waitingData, deadline := true,
        supplier := some (if r.kind = .fetch ∨ r.kind = .fetchOwn then rd.holder.getD h else h) } ∧
      Offer.record p ∉ u.bus.offers ∧ u.bus.phase = .free ∧
      (∀ q : RecordTag, q ≠ p → u.positions[q] = s.positions[q]) ∧
      (∀ k, r.kind = .operate → s.slotOf pub.line = some k → (s.slotAt k).state = .read →
        (u.slotAt k).state = .void) ∧
      s.sameMemory u ∧ s.sameQueues u ∧ u.faults = s.faults ∧ u.state = s.state

/-- The tally of an own CLAIM that takes effect (R72, R93): every waiting tag completes OK, a READ with its words
as they stand after the WRITEs before it on the list, also where the slot is lost (the model's reading, log entry
16). With no request held back on the line the position is free, and the slot is HELD with the enabled bytes of
every WRITE on the list merged in their order, dirty when there is one, its lost flag as it was. -/
def Obligations.OwnClaimTakesTheLine : Prop :=
  ∀ (s : State) (pub : Publication) (p : RecordTag) (r : Record) (k : Nat) (t : Tally) (rd : Reading),
    s.canonical → pub.body.kind = .claim → s.atTally pub (some (.offer (.record p))) t rd →
    s.ownRecord pub p r → r.slot = some k → s.homedHere pub.line = none → s.takesEffect pub rd = true →
    r.tags.Nodup →
    ∃ u, exec (.claimTally t) s = .next u ∧
      (∀ pre v post rq pr, r.tags = pre ++ v :: post → s.entry v = .opened rq pr →
        (isWrite rq = true → u.entry v = .done .ok []) ∧
        (∀ a n, rq = .read a n → u.entry v = .done .ok
          (sliceLine (lineAfter (s.slotAt k).words (pre.filterMap s.request)) (wordIndex a) n.toNat))) ∧
      (s.quiet pub.line → u.positions[p] = .free ∧
        (∀ q : RecordTag, q ≠ p → u.positions[q] = s.positions[q]) ∧
        u.slotAt k = { s.slotAt k with
          state := .held, dirty := (r.tags.filterMap s.request).any isWrite,
          words := lineAfter (s.slotAt k).words (r.tags.filterMap s.request) } ∧
        (s.state ≠ .leaving → ∀ j, j ≠ k → u.slotAt j = s.slotAt j) ∧ s.sameMemory u ∧ s.sameQueues u) ∧
      u.bus.phase = .free ∧ u.faults = s.faults ∧ u.state = s.state

/-- The tally of an own WRITE_THROUGH, RETURN or RELEASE that takes effect (R70, R76, R93, R102): its
waiting tags complete OK. With no request held back on its line its position is free; a WRITE_THROUGH published
with keeps-copy set writes its enabled bytes into this station's READ slot of the line, dirty as it was, and
changes no other slot, nor any with keeps-copy clear or the slot not READ; the slot of an eviction is VOID, or
the request that waits for the way has it, with its record in the position kept for it. -/
def Obligations.OwnWriteOrEvictionEnds : Prop :=
  ∀ (s : State) (pub : Publication) (p : RecordTag) (r : Record) (t : Tally) (rd : Reading),
    s.canonical →
    pub.body.kind = .writeThrough ∨ (pub.body.kind = .ret ∨ pub.body.kind = .release) ∧ r.slot ≠ none →
    s.atTally pub (some (.offer (.record p))) t rd → s.ownRecord pub p r →
    s.homedHere pub.line = none → s.takesEffect pub rd = true →
    ∃ u, exec (tallyOf pub.body.kind t) s = .next u ∧
      (∀ v rq pr, v ∈ r.tags → s.entry v = .opened rq pr → u.entry v = .done .ok []) ∧
      (s.quiet pub.line → pub.body.kind = .writeThrough → u.positions[p] = .free ∧ s.sameMemory u ∧
        s.sameQueues u ∧ (∀ q : RecordTag, q ≠ p → u.positions[q] = s.positions[q]) ∧
        (∀ mask keeps en ws mask' en' ws', pub.body = .writeThrough mask keeps en ws →
          r.payload = .writeThrough mask' en' ws' → s.state ≠ .leaving →
          (∀ k, keeps = true → s.slotOf pub.line = some k → (s.slotAt k).state = .read →
            u.slotAt k = { s.slotAt k with words := mergeLine (s.slotAt k).words ws' en' } ∧
            ∀ j, j ≠ k → u.slotAt j = s.slotAt j) ∧
          (keeps = false ∨ (∀ k, s.slotOf pub.line = some k → (s.slotAt k).state ≠ .read) →
            s.sameCopies u))) ∧
      (∀ k, pub.body.kind ≠ .writeThrough → r.slot = some k → s.nothingWaits r →
        u.positions[p] = .free ∧ s.sameMemory u ∧ s.sameQueues u ∧
        (∀ q : RecordTag, q ≠ p → u.positions[q] = s.positions[q]) ∧ u.slotAt k = (s.slotAt k).voided) ∧
      (∀ k q v rq a pr, pub.body.kind ≠ .writeThrough → r.slot = some k → s.successorOf k = some (q, v) →
        s.entry v = .opened rq pr → v ∉ r.tags → requestAddress rq = some a → s.quiet pub.line →
        s.quiet (lineOfAddr a) →
        u.positions[p] = .free ∧ s.sameMemory u ∧ s.sameQueues u ∧
        u.recordAt q = some (newRecord (if requestChanges rq then .fetchOwn else .fetch) (lineOfAddr a)
          (some k) [v] .none) ∧
        Offer.record q ∈ u.bus.offers ∧ (u.slotAt k).line = lineOfAddr a ∧
        (u.slotAt k).state = if requestChanges rq then .owning else .filling) ∧
      u.bus.phase = .free ∧ u.faults = s.faults ∧ u.state = s.state

/-- The tally of an own recall (R91 to R93, R136, R137, R143). With effect and a HOLD the record waits for the
holder's DATA; with effect and without one, and with no held_by station on the entry, the record closes: with
nothing waiting on the line its position is free and the line's entry no longer busy; a READ that waits for the
recall at the head of its line acts in the same step, its access issued; a REPAIR_LINE that waits so for a
RECALL_ALL completes OK, and the lost mark is clear. Without effect the record is offered anew, or at the
thirty-second retry closes: the local request that waits for it completes CONTENDED, and the entry keeps its
holders, its held_by station and its lost mark, no longer busy. Both are said in states that keep the law of
StepKeepsTheTenureLaw: at this station's own tally no reservation for another's stands. -/
def Obligations.OwnRecallTally : Prop :=
  (∀ (s : State) (pub : Publication) (p : RecordTag) (r : Record) (i : Nat) (t : Tally) (rd : Reading),
    s.canonical → pub.body.kind = .recallRead ∨ pub.body.kind = .recallAll →
    s.atTally pub (some (.offer (.record p))) t rd → s.ownRecord pub p r →
    s.homedHere pub.line = some i → s.takesEffect pub rd = true → s.tenureLaw →
    (∀ e x, s.loanOf i = some e → e.heldBy = some x → rd.holder ≠ none) →
    ∃ u, exec (tallyOf pub.body.kind t) s = .next u ∧
      (∀ x, rd.holder = some x → s.sameMemory u ∧
        u.recordAt p = some { r with phase := .waitingData, deadline := true, supplier := some x }) ∧
      (rd.holder = none → s.quiet pub.line → u.positions[p] = .free ∧ s.sameMemory u ∧ s.sameQueues u ∧
        ∀ k e, s.state ≠ .leaving → s.loanKey i = some k → (u.loanWay k).entry = some e →
          e.busy = false) ∧
      (∀ e v a n res, rd.holder = none → s.state = .member → s.onlyRecord p pub.line → s.bank.run = none →
        s.headWaits pub.line e v (.read a n) res →
        u.homeQueue.entries[e] = .request pub.line v .acting ∧
        u.bank.inFlight = s.bank.inFlight ++ [.localRead (some v) (s.lineLost i)
          (sliceLine (readLine s.bank.mem i) (wordIndex a) n.toNat)]) ∧
      (∀ e v a res, rd.holder = none → s.state = .member → s.onlyRecord p pub.line →
        pub.body.kind = .recallAll → s.headWaits pub.line e v (.repairLine a) res →
        u.entry v = .done .ok [] ∧
        ∀ k w, s.loanKey i = some k → (u.loanWay k).entry = some w → w.lost = false) ∧
      u.bus.phase = .free ∧ u.faults = s.faults ∧ u.state = s.state) ∧
  ∀ (s : State) (pub : Publication) (p : RecordTag) (r : Record) (i : Nat) (t : Tally) (rd : Reading),
    s.canonical → pub.body.kind = .recallRead ∨ pub.body.kind = .recallAll →
    s.atTally pub (some (.offer (.record p))) t rd → s.ownRecord pub p r →
    s.homedHere pub.line = some i → s.homeSilent pub.line rd = false → rd.hasRetry = true →
    rd.holders.length < 2 → s.tenureLaw →
    ∃ u, exec (tallyOf pub.body.kind t) s = .next u ∧ u.faults = s.faults ∧ u.state = s.state ∧
      (r.retry + 1 < 32 → u.recordAt p = some (Record.again r) ∧ Offer.record p ∈ u.bus.offers ∧
        s.sameMemory u ∧ (s.state ≠ .leaving → u.loans = s.loans)) ∧
      (32 ≤ r.retry + 1 →
        (∀ v rq pr, s.recallWaiter pub.line = some v → s.entry v = .opened rq pr →
          u.entry v = .done .contended []) ∧
        (s.quiet pub.line → u.positions[p] = .free ∧ s.sameMemory u ∧
          ∀ k e v, s.state ≠ .leaving → s.loanKey i = some k → (s.loanWay k).entry = some e →
            v = { e with busy := false } →
            (u.loanWay k).entry = if v.holders = 0 ∧ v.heldBy = none ∧ v.owedBy = none ∧ v.lost = false ∧
              s.homeHas v.line = false then none else some v))

/-- The tally of an own line tenure of a remote line that does not take effect (R33, R34, R91, R92). With the
home position silent the record closes HOME_ABSENT, whatever else the tally shows. Else, with a RETRY in some
position or two or more HOLDs, the record is offered anew with one more retry and no supplier, or closes
CONTENDED at the thirty-second; two HOLDs are noticed as TALLY_CONFLICT, naming the line, and as the third
notice halt the station. The waiting tags of a record that closes complete with its status, also where the notice
halts the station (that the notice comes after them is the model's choice, log entry 35); with nothing waiting on
the record its position is then free. -/
def Obligations.TenureWithoutEffect : Prop :=
  ∀ (s : State) (pub : Publication) (p : RecordTag) (r : Record) (t : Tally) (rd : Reading),
    lineKind pub.body.kind = true → s.atTally pub (some (.offer (.record p))) t rd →
    s.ownRecord pub p r → s.homedHere pub.line = none →
    s.homeSilent pub.line rd = true ∨ rd.hasRetry = true ∨ 2 ≤ rd.holders.length →
    ∃ u, exec (tallyOf pub.body.kind t) s = .next u ∧
      (s.homeSilent pub.line rd = true → u.faults = s.faults ∧ u.state = s.state ∧
        (s.nothingWaits r → u.positions[p] = .free) ∧
        ∀ v rq pr, v ∈ r.tags → s.entry v = .opened rq pr → u.entry v = .done .homeAbsent []) ∧
      (s.homeSilent pub.line rd = false →
        (r.retry + 1 < 32 → rd.holders.length < 2 ∨ s.faults.length < 2 →
          u.recordAt p = some (Record.again r) ∧ Offer.record p ∈ u.bus.offers ∧
          (s.state ≠ .leaving → s.sameCopies u)) ∧
        (32 ≤ r.retry + 1 → (s.nothingWaits r → u.positions[p] = .free) ∧
          ∀ v rq pr, v ∈ r.tags → s.entry v = .opened rq pr → u.entry v = .done .contended []) ∧
        (rd.holders.length < 2 → u.faults = s.faults ∧ u.state = s.state) ∧
        (2 ≤ rd.holders.length → s.faults.length < 2 → u.state = s.state ∧
          u.faults = s.faults ++ [{ kind := .tallyConflict, station := none, line := some pub.line,
                                    count := none }]) ∧
        (2 ≤ rd.holders.length → s.faults.length = 2 → u.state = .halted ∧ u.faults = s.faults)) ∧
      u.bus.phase = .free ∧ (s.nothingWaits r → s.sameMemory u)

/-! ### Tallies of other stations' line tenures -/

/-- Another station's tenure that takes effect acts on the slot of a line copied here (R90, R108 to R114): a
READ or UPGRADING copy stays under FETCH and RECALL_READ; under the others that act on copies, CLAIM among
them, a READ one is VOID, an UPGRADING one OWNING with its record made a FETCH_OWN. A HELD copy becomes READ
or VOID likewise (not under a CLAIM), and an EVICTING one, with nothing waiting on its record, is VOID with that
record closed OK; a WRITE_THROUGH's bytes are first written into the slot's words, and the words are ready as DATA
in the entry that was reserved. -/
def Obligations.SnoopedTenureActsOnTheSlot : Prop :=
  ∀ (s : State) (pub : Publication) (k : Nat) (keeps : Bool) (w : Slot) (t : Tally) (rd : Reading),
    s.canonical → s.state ≠ .leaving → actsOnSlots pub.body.kind = true →
    s.atTally pub none t rd → s.homedHere pub.line = none → s.takesEffect pub rd = true →
    s.slotOf pub.line = some k →
    keeps = decide (pub.body.kind = .fetch ∨ pub.body.kind = .recallRead) →
    w = { s.slotAt k with words := match pub.body with
      | .writeThrough mask _ en ws => mergeLine (s.slotAt k).words ws (en &&& maskEnables mask)
      | _ => (s.slotAt k).words } →
    ∃ u, exec (tallyOf pub.body.kind t) s = .next u ∧ u.faults = s.faults ∧ u.state = s.state ∧
      ((s.slotAt k).state ≠ .evicting → s.sameMemory u ∧ ∀ j, j ≠ k → u.slotAt j = s.slotAt j) ∧
      ((s.slotAt k).state = .read → u.positions = s.positions ∧
        u.slotAt k = if keeps then s.slotAt k else (s.slotAt k).voided) ∧
      ((s.slotAt k).state = .upgrading →
        (keeps = true → u.positions = s.positions ∧ u.slotAt k = s.slotAt k) ∧
        (keeps = false → u.slotAt k = { s.slotAt k with state := .owning } ∧
          ∀ p r, s.recordOf pub.line = some (p, r) → u.recordAt p = some { r with kind := .fetchOwn } ∧
            ∀ q : RecordTag, q ≠ p → u.positions[q] = s.positions[q])) ∧
      (∀ e : Fin 4, (s.slotAt k).state = .held → pub.body.kind ≠ .claim → s.reservedSupply = some e →
        u.positions = s.positions ∧
        u.slotAt k = (if keeps then w.toRead else w.voided) ∧
        ∃ d, u.supply.entries[e] = .ready d ∧ e ∈ u.supply.order ∧ s.owesFrom pub (s.slotAt k) d) ∧
      (∀ (e : Fin 4) (p : RecordTag) (r : Record), (s.slotAt k).state = .evicting →
        pub.body.kind ≠ .claim → s.reservedSupply = some e → s.recordOf pub.line = some (p, r) →
        r.slot = some k →
        (∀ v rq pr, v ∈ r.tags → s.entry v = .opened rq pr → u.entry v = .done .ok []) ∧
        (∃ d, u.supply.entries[e] = .ready d ∧ e ∈ u.supply.order ∧ s.owesFrom pub (s.slotAt k) d) ∧
        (s.nothingWaits r → s.sameMemory u ∧
          u.slotAt k = w.voided ∧ u.positions[p] = .free ∧ Offer.record p ∉ u.bus.offers ∧
          (∀ j, j ≠ k → u.slotAt j = s.slotAt j) ∧
          ∀ q : RecordTag, q ≠ p → u.positions[q] = s.positions[q]))

/-- A RETURN or WRITE_THROUGH of another station that takes effect at the home, with no loan mismatch, stores its
bytes in the home memory, and no other byte changes, where no run is under way (R127, R130, R131); during a run its
write is held behind the accesses that became due before it, and nothing is stored yet (R151). So does, with no run
under way, a DATA at the home of its line (R37, R97, R134, R137, R139): the data of a recall, the
write-back copy of a DATA with also-home set, and the holder data of an OPERATE, which then executes; one the
home refuses goes through the bank too (log entry 34), and nothing an operation gives is stored before its run
ends (log entry 8), the model's choices. A recall's record closes, its busy mark clear (what its line holds is said
with nothing waiting there); a WRITE that waits for it at the head of the line acts in the same step, over the
recalled words. A DATA taken as MEMORY_ERROR writes nothing and loses the line: one of status MEMORY_ERROR, and
one of R180, with an unassigned status code or with words past its line, whose words the home does not write with
also-home set either. A DATA of the owed_by station settles what it owed. -/
def Obligations.TenuresWriteTheHomeMemory : Prop :=
  (∀ (s : State) (pub : Publication) (i : Nat) (l : Line) (en : BitVec 64) (t : Tally) (rd : Reading),
    s.canonical →
    (pub.body = .ret l ∧ en = allBytes ∨
      ∃ mask keeps bytes, pub.body = .writeThrough mask keeps bytes l ∧ en = bytes &&& maskEnables mask) →
    s.atTally pub none t rd → s.homedHere pub.line = some i → s.takesEffect pub rd = true →
    (∀ e h, s.loanOf i = some e → e.heldBy = some h →
      mismatched pub.body.kind pub.publisher (!rd.holders.isEmpty) h = false) →
    ∃ u, exec (tallyOf pub.body.kind t) s = .next u ∧
      (s.bank.run = none → s.bytesStored u i l en) ∧
      (s.bank.run ≠ none →
        u.bank = { s.bank with held := s.bank.held ++ [.store (lineCells i l en)] }) ∧
      u.faults = s.faults ∧ u.state = s.state ∧ u.positions = s.positions ∧ u.bus.phase = .free) ∧
  ∀ (s : State) (pub : Publication) (d : Data) (i : Nat) (t : Tally) (rd : Reading),
    s.canonical → pub.body = .data d → s.atTally pub none t rd → rd.silent pub.publisher = false →
    s.homedHere pub.line = some i → s.bank.run = none →
    ∃ u, exec (.dataTally t) s = .next u ∧ u.faults = s.faults ∧ u.state = s.state ∧
      (d.target ≠ s.number → u.positions = s.positions ∧ s.sameQueues u ∧
        (d.alsoHome = false ∨ unassignedData d = true → s.sameMemory u) ∧
        (d.alsoHome = true → wholeLineData d → s.lineBecomes u i d.words)) ∧
      (∀ k e, d.target ≠ s.number → s.state ≠ .leaving → s.loanKey i = some k →
        (s.loanWay k).entry = some e → e.owedBy = some pub.publisher →
        (u.loanWay k).entry =
          if e.holders = 0 ∧ e.heldBy = none ∧ e.lost = false ∧ e.busy = false ∧ s.homeHas e.line = false
          then none else some { e with owedBy := none }) ∧
      (∀ r, d.target = s.number → s.matchRecord pub d = some r →
        r.kind = .recallRead ∨ r.kind = .recallAll → s.quiet pub.line →
        (wholeLineData d → s.lineBecomes u i d.words) ∧
        (d.status = 3 ∧ d.alsoHome = false ∨ unassignedData d = true → s.sameMemory u) ∧
        (wholeLineData d ∨ memoryErrorData d → u.positions[pub.tag] = .free ∧
          (∀ q : RecordTag, q ≠ pub.tag → u.positions[q] = s.positions[q]) ∧
          ∀ k e, s.state ≠ .leaving → s.loanKey i = some k → (s.loanWay k).entry = some e → e.busy = true →
            ((e.lost = true ∨ d.status ≠ 0 ∨ unassignedData d = true) →
              ∃ v, (u.loanWay k).entry = some v ∧ v.busy = false ∧
              v.lost = true ∧ v.holders = e.holders ∧ v.heldBy = e.heldBy) ∧
            (e.lost = false → wholeLineData d → d.status = 0 → ∀ v, (u.loanWay k).entry = some v →
              v.busy = false ∧ v.lost = false ∧ v.holders = e.holders ∧ v.heldBy = e.heldBy))) ∧
      (∀ r e v a n en ws res patch, d.target = s.number → s.matchRecord pub d = some r →
        r.kind = .recallAll → s.state = .member → s.onlyRecord pub.tag pub.line → wholeLineData d →
        s.headWaits pub.line e v (.write a n en ws) res →
        (∀ x, s.loanOf i = some x → x.holders = 0 ∧ x.heldBy = none) →
        patch = requestPatch (.write a n en ws) →
        u.homeQueue.entries[e] = .request pub.line v .acting ∧
        u.bank.inFlight = s.bank.inFlight ++ [.localStore (some v)] ∧
        s.lineBecomes u i (mergeLine (lineOf fun j => d.words.getD j 0) patch.1 patch.2).toList) ∧
      (∀ (h : Fin 8) x g op a lost e res, d.target = s.number → s.matchRecord pub d = none →
        s.matchFence pub d = false → s.awaitingOperation pub.line d.source = some h →
        s.homeQueue.entries[h] = .operation pub.line x g op a lost e → s.resolveLine pub.line = some res →
        (wholeLineData d → s.lineBecomes u i d.words) ∧
        (d.status = 3 ∧ d.alsoHome = false ∨ unassignedData d = true → s.sameMemory u) ∧
        (wholeLineData d ∨ memoryErrorData d →
          u.homeQueue.entries[h] =
            .operation pub.line x g op none (lost || d.status != 0 || unassignedData d) e ∧
          u.bank.run = some { owner := .operation h, op := operationOp op pub.line, line := pub.line,
                              lost := lost || d.status != 0 || unassignedData d,
                              refusal := operateRefusal (operationOp op pub.line) res.entry } ∧
          u.positions = s.positions))

/-- A FETCH, FETCH_OWN or READ_DIRECT of another station that takes effect at the home without a HOLD,
with its supply entry reserved, is supplied from memory: the entry awaits a line read, issued now (R132), or
held behind the accesses that became due before it while a run is under way (R151), its DATA addressed to the publisher, with LOST_DATA when the line's entry is lost after the
update, a mismatch's loss among them (R129), else OK, for the whole line or the words a READ_DIRECT asks; no byte
of memory changes. An OPERATE that takes effect without a loan mismatch
confirms its two reservations (R139, R149): its home queue entry awaits the station that replied HOLD, or
none, and with none it executes after the home's own check: at once, or in its place among the accesses held
while a run is under way. One the home refuses
is put through the bank too (log entry 34), and no operation stores anything before its run ends (log entry 8):
both are the model's choices. -/
def Obligations.HomeSuppliesFromMemory : Prop :=
  (∀ (s : State) (pub : Publication) (i : Nat) (e : Fin 4) (t : Tally) (rd : Reading),
    s.canonical →
    pub.body.kind ∈ [Kind.fetch, .fetchOwn, .readDirect] → s.atTally pub none t rd →
    s.homedHere pub.line = some i → s.takesEffect pub rd = true → rd.holders = [] →
    s.reservedSupply = some e → s.reservedHome = none → s.faults.length < 2 →
    ∃ u d, exec (tallyOf pub.body.kind t) s = .next u ∧
      u.supply.entries[e] = .awaiting d pub.body.kind ∧ d.line = pub.line ∧ d.tag = pub.tag ∧
      d.data.target = pub.publisher ∧ d.data.source = s.number ∧ d.data.dirty = false ∧
      d.data.alsoHome = false ∧
      (pub.body.kind = .fetch ∨ pub.body.kind = .fetchOwn → d.data.first = 0 ∧ d.data.count = 16) ∧
      (∀ first count, pub.body = .readDirect first count → d.data.first = first ∧ d.data.count = count) ∧
      ((∀ v h, s.loanOf i = some v → v.heldBy = some h → ¬ loanMismatch pub rd h) →
        d.data.status = (if s.lineLost i then 2 else 0) ∧ u.faults = s.faults) ∧
      (∀ v h, s.loanOf i = some v → v.heldBy = some h → loanMismatch pub rd h → d.data.status = 2) ∧
      (s.bank.run = none →
        u.bank.inFlight = s.bank.inFlight ++ [.supplyRead (some e) (readLine s.bank.mem i)]) ∧
      (s.bank.run ≠ none → u.bank = { s.bank with held := s.bank.held ++ [.supplyRead e i] }) ∧
      s.sameMemory u ∧ u.state = s.state ∧ u.positions = s.positions) ∧
  ∀ (s : State) (pub : Publication) (op : Operation) (i : Nat) (e : Fin 4) (h : Fin 8) (res : Resolved)
    (t : Tally) (rd : Reading),
    s.canonical → pub.body = .operate op → s.atTally pub none t rd → s.homedHere pub.line = some i →
    s.resolveLine pub.line = some res → s.takesEffect pub rd = true → s.reservedSupply = some e →
    s.reservedHome = some h →
    (∀ v x, s.loanOf i = some v → v.heldBy = some x → ¬ loanMismatch pub rd x) →
    ∃ u d, exec (.operateTally t) s = .next u ∧
      u.supply.entries[e] = .awaiting d .operate ∧ d.line = pub.line ∧ d.tag = pub.tag ∧
      d.data.target = pub.publisher ∧ d.data.source = s.number ∧
      u.homeQueue.entries[h] =
        .operation pub.line pub.publisher pub.tag op rd.holder (s.lineLost i) e ∧
      (∀ run : Run, rd.holder = none → run =
          { owner := .operation h, op := operationOp op pub.line, line := pub.line, lost := s.lineLost i,
            refusal := operateRefusal (operationOp op pub.line) res.entry } →
        (s.bank.run = none → u.bank.run = some run) ∧
        (s.bank.run ≠ none → u.bank = { s.bank with held := s.bank.held ++ [.operate run] })) ∧
      (∀ x, rd.holder = some x → u.bank = s.bank) ∧
      s.sameMemory u ∧ u.faults = s.faults ∧ u.state = s.state ∧ u.positions = s.positions

/-- The loan table at a tally with effect (R122, R127 to R129, R136). The update of an entry says what the
table says of its holders, its held_by and its owed_by station, by the kind of the tenure; X the single
HOLD, R the publisher. The tally applies it to the line's entry, which is freed when nothing keeps it, its
way refreshed; a FETCH or FETCH_OWN on a line without an entry first allocates one in the free way of lowest
number, and the other kinds make none. That the way of an entry is refreshed also by a RETURN or RELEASE
of a station that held_by does not name is the model's choice (log entry 32). The tenure is another station's, or
one of this station's recalls, the only line tenures it publishes for its home lines (R29, R88); a recall is said
with nothing waiting on its line: work that its end lets act changes the entry in turn. A mismatch on the held_by
station first marks the entry lost, its held_by none, and posts LOAN_MISMATCH naming station and line; as the
third notice it halts the station. -/
def Obligations.LoanUpdateFollowsTheTable : Prop :=
  (∀ (e : LoanEntry) (pub : Publication) (rd : Reading) (v : LoanEntry), v = e.updated pub rd →
    (v.index = e.index ∧ v.line = e.line ∧ v.lost = e.lost ∧ v.busy = e.busy) ∧
    (pub.body.kind = .fetch → v.heldBy = none ∧
      (∀ x, inSet v.holders x = true ↔ (inSet e.holders x = true ∧ rd.at x ≠ .noReply) ∨
        x = pub.publisher ∨ rd.holder = some x ∨ e.heldBy = some x) ∧
      (∀ x, rd.holder = some x → v.owedBy = some x) ∧ (rd.holder = none → v.owedBy = e.owedBy)) ∧
    (pub.body.kind = .fetchOwn ∨ pub.body.kind = .claim →
      v.heldBy = some pub.publisher ∧ v.holders = 0 ∧ v.owedBy = e.owedBy) ∧
    (pub.body.kind = .operate ∨ pub.body.kind = .recallAll →
      v.heldBy = none ∧ v.holders = 0 ∧ v.owedBy = e.owedBy) ∧
    (pub.body.kind = .ret ∨ pub.body.kind = .release →
      v.holders = e.holders ∧ v.owedBy = e.owedBy ∧
      v.heldBy = if e.heldBy = some pub.publisher then none else e.heldBy) ∧
    (pub.body.kind = .writeThrough → v.heldBy = none ∧
      v.holders = (if bodyKeeps pub.body then single pub.publisher else 0) ∧
      (∀ x, rd.holder = some x → v.owedBy = some x) ∧ (rd.holder = none → v.owedBy = e.owedBy)) ∧
    (pub.body.kind = .recallRead → v.heldBy = none ∧ v.owedBy = e.owedBy ∧
      (∀ x, rd.holder = some x → v.holders = single x) ∧
      (rd.holder = none → ∀ x, inSet v.holders x = true ↔ inSet e.holders x = true ∧ rd.at x ≠ .noReply)) ∧
    (pub.body.kind = .readDirect → v = e)) ∧
  ∀ (s : State) (pub : Publication) (own : Option Source) (i : Nat) (t : Tally) (rd : Reading),
    s.canonical → s.state ≠ .leaving → lineKind pub.body.kind = true → s.atTally pub own t rd →
    own = none ∨ (∃ p, own = some (.offer (.record p))) ∧
      (pub.body.kind = .recallRead ∨ pub.body.kind = .recallAll) ∧ s.quiet pub.line → s.homedHere pub.line = some i →
    s.takesEffect pub rd = true →
    ∃ u, exec (tallyOf pub.body.kind t) s = .next u ∧
      (∀ k e, s.loanKey i = some k → (s.loanWay k).entry = some e →
        (∀ h, e.heldBy = some h → ¬ loanMismatch pub rd h) →
        u.faults = s.faults ∧ u.state = s.state ∧
        ∃ v, v = e.afterTally pub rd ∧
          ((u.loanWay k).entry = some v ∨
            (u.loanWay k).entry = none ∧ v.holders = 0 ∧ v.heldBy = none ∧ v.owedBy = none ∧
              v.lost = false ∧ v.busy = false) ∧
          (pub.body.kind ≠ .operate → s.homeHas e.line = false → v.holders = 0 → v.heldBy = none →
            v.owedBy = none → v.lost = false → v.busy = false → (u.loanWay k).entry = none) ∧
          ((u.loanWay k).entry = some v → pub.body.kind ≠ .readDirect → s.exhaustionTally pub = false →
            (u.loanWay k).rank = 0)) ∧
      (∀ k e h, s.loanKey i = some k → (s.loanWay k).entry = some e → e.heldBy = some h →
        loanMismatch pub rd h →
        (s.faults.length < 2 → u.state = s.state ∧
          (u.loanWay k).entry =
            some (LoanEntry.afterTally { e with lost := true, heldBy := none } pub rd) ∧
          u.faults = s.faults ++ [{ kind := .loanMismatch, station := some h, line := some pub.line,
                                    count := none }]) ∧
        (s.faults.length = 2 → u.state = .halted ∧ u.faults = s.faults)) ∧
      (∀ w ws, pub.body.kind = .fetch ∨ pub.body.kind = .fetchOwn → s.loanKey i = none →
        s.freeWays i = w :: ws → s.exhaustionTally pub = false →
        u.faults = s.faults ∧ (u.loanWay w).rank = 0 ∧
        (u.loanWay w).entry = some (LoanEntry.updated (freshLoan i pub.line) pub rd)) ∧
      (pub.body.kind ≠ .fetch → pub.body.kind ≠ .fetchOwn →
        ∀ k, (s.loanWay k).entry = none → (u.loanWay k).entry = none)

/-! ### DATA, membership tenures, departures -/

/-- A line DATA for this station that its FETCH or FETCH_OWN record waits for (R81, R94, R95): the slot
takes the sixteen words, READ or HELD, with the lost mark of LOST_DATA; OK leaves the mark of an OWNING slot as it
was, which a lost UPGRADING one made OWNING has set (R66 by its letter, log entry 30); a waiting READ completes with its words and the
DATA's status; with no request held back on the line the position is free. A WRITE before a READ on the list of a FETCH_OWN is
applied first, and the READ sees it (R72). A READ_DIRECT completes with the DATA's words and status, an
OPERATE with its result (R96; one taken as MEMORY_ERROR by R180 with the one zero word that log entry 15
chooses), and the position likewise. A DATA that matches a fence lifts it and does nothing more (R100). -/
def Obligations.LineDataFillsTheSlot : Prop :=
  (∀ (s : State) (pub : Publication) (d : Data) (r : Record) (k : Nat) (v : Tag) (a : Word) (n : BitVec 5)
    (pr : Progress) (t : Tally) (rd : Reading),
    s.canonical → s.state ≠ .leaving → s.quiet pub.line → pub.body = .data d → d.target = s.number →
    s.atTally pub none t rd → rd.silent pub.publisher = false → s.homedHere pub.line = none →
    s.matchRecord pub d = some r → r.kind = .fetch ∨ r.kind = .fetchOwn → r.slot = some k →
    r.tags = [v] → s.entry v = .opened (.read a n) pr → d.status = 0 ∨ d.status = 2 →
    d.first = 0 → d.count = 16 → d.words.length = 16 →
    ∃ u, exec (.dataTally t) s = .next u ∧ u.positions[pub.tag] = .free ∧
      u.slotAt k = { s.slotAt k with
        state := if r.kind = .fetchOwn then .held else .read,
        dirty := decide (r.kind = .fetchOwn) && d.dirty,
        lost := decide (d.status = 2) || decide (r.kind = .fetchOwn) && (s.slotAt k).lost,
        words := lineOf fun i => d.words.getD i 0 } ∧
      u.entry v = .done (if d.status = 2 then .lostData else .ok)
        (sliceLine (lineOf fun i => d.words.getD i 0) (wordIndex a) n.toNat) ∧
      (∀ j, j ≠ k → u.slotAt j = s.slotAt j) ∧ u.bus.phase = .free ∧ s.sameMemory u ∧ u.state = s.state) ∧
  (∀ (s : State) (pub : Publication) (d : Data) (r : Record) (k : Nat) (v w : Tag) (a b : Word)
    (n m : BitVec 5) (en : BitVec 64) (ws : List Word) (pr pr' : Progress) (l : Line) (t : Tally)
    (rd : Reading),
    s.canonical → s.state ≠ .leaving → s.quiet pub.line → pub.body = .data d → d.target = s.number →
    s.atTally pub none t rd → rd.silent pub.publisher = false → s.homedHere pub.line = none →
    s.matchRecord pub d = some r → r.kind = .fetchOwn → r.slot = some k → r.tags = [v, w] → v ≠ w →
    s.entry v = .opened (.write a n en ws) pr → s.entry w = .opened (.read b m) pr' → wholeLineData d →
    l = mergeLine (lineOf fun i => d.words.getD i 0) (requestPatch (.write a n en ws)).1
      (requestPatch (.write a n en ws)).2 →
    ∃ u, exec (.dataTally t) s = .next u ∧ u.positions[pub.tag] = .free ∧
      u.slotAt k = { s.slotAt k with state := .held, dirty := true,
                                     lost := decide (d.status = 2) || (s.slotAt k).lost, words := l } ∧
      u.entry v = .done .ok [] ∧
      u.entry w = .done (if d.status = 2 then .lostData else .ok) (sliceLine l (wordIndex b) m.toNat)) ∧
  (∀ (s : State) (pub : Publication) (d : Data) (r : Record) (v : Tag) (rq : Request) (pr : Progress)
    (t : Tally) (rd : Reading),
    s.canonical → pub.body = .data d → d.target = s.number → s.atTally pub none t rd →
    rd.silent pub.publisher = false → s.matchRecord pub d = some r →
    r.kind = .readDirect ∨ r.kind = .operate → r.tags = [v] → s.entry v = .opened rq pr →
    ∃ u, exec (.dataTally t) s = .next u ∧
      (s.quiet pub.line → u.positions[pub.tag] = .free ∧
        (∀ q : RecordTag, q ≠ pub.tag → u.positions[q] = s.positions[q]) ∧
        (s.state ≠ .leaving → s.sameCopies u)) ∧
      (r.kind = .readDirect → d.status = 0 ∨ d.status = 2 → d.first.toNat + d.count.toNat ≤ 16 →
        u.entry v = .done (if d.status = 2 then .lostData else .ok) d.words) ∧
      (r.kind = .readDirect → d.status = 3 ∨ 21 ≤ d.status.toNat ∨ 16 < d.first.toNat + d.count.toNat →
        u.entry v = .done .memoryError []) ∧
      (∀ st : Status, r.kind = .operate → d.status = st.code → d.first.toNat + d.count.toNat ≤ 16 →
        u.entry v = .done st d.words) ∧
      (r.kind = .operate → 21 ≤ d.status.toNat ∨ 16 < d.first.toNat + d.count.toNat →
        u.entry v = .done .memoryError [0]) ∧
      u.bus.phase = .free ∧ u.faults = s.faults ∧ u.state = s.state) ∧
  ∀ (s : State) (pub : Publication) (d : Data) (t : Tally) (rd : Reading),
    s.canonical → pub.body = .data d → d.target = s.number → s.atTally pub none t rd →
    rd.silent pub.publisher = false → s.homedHere pub.line = none →
    s.positions[pub.tag] = .fenced pub.line d.source →
    ∃ u, exec (.dataTally t) s = .next u ∧ u.positions[pub.tag] = .free ∧
      (∀ q : RecordTag, q ≠ pub.tag → u.positions[q] = s.positions[q]) ∧
      (s.state ≠ .leaving → s.sameCopies u ∧ u.loans = s.loans) ∧ s.sameMemory u ∧ s.sameQueues u ∧
      (∀ v, s.walkApart v → u.entry v = s.entry v) ∧ u.faults = s.faults ∧ u.state = s.state

/-- The tally of the own JOIN (R44): with a REFUSE the station is UNJOINED again, its table unfrozen as it
was, and JOIN completes JOIN_REFUSED; without one JOIN completes OK, and the station is MEMBER, or
SETTLING with the others awaited and the timer running when others are present. In a pool of its own the requests
that waited for MEMBER are taken up in the same step (R40). The tally of the own
LEAVE (R53): the station is UNJOINED, its table unfrozen with its contents, its membership set empty, and
LEAVE completes OK. -/
def Obligations.OwnJoinAndLeaveTallies : Prop :=
  (∀ (s : State) (pub : Publication) (code : BitVec 3) (image : WindowTable) (drove : ReplyCode)
    (rcl : Option RecordTag) (v : Tag) (t : Tally) (rd : Reading) (others : StationSet),
    s.state = .joining → pub.body = .join code image →
    s.bus.phase = .tenure pub (some (.offer .join)) drove rcl → rd = s.reading .join drove t →
    s.outstanding .join = some v → s.walkApart v →
    others = rd.presentSet &&& ~~~(single s.number) →
    ∃ u, exec (.joinTally t) s = .next u ∧ u.bus.phase = .free ∧ u.decoder.table = s.decoder.table ∧
      u.decoder.sizeCode = s.decoder.sizeCode ∧ u.faults = s.faults ∧
      (rd.refusers ≠ 0 → u.state = .unjoined ∧ u.decoder.frozen = false ∧
        u.members.changed = s.members.changed ∧
        u.outcome v = some (.joinRefused, [rd.refusers.zeroExtend 32])) ∧
      (rd.refusers = 0 → others ≠ 0 ∨ s.noneWaits → s.sameMemory u ∧ u.positions = s.positions) ∧
      (rd.refusers = 0 → others = 0 → ∀ x, s.awaitsMember x → u.progress x ≠ some .waitsMember) ∧
      (rd.refusers = 0 → u.outcome v = some (.ok, []) ∧ u.decoder = s.decoder ∧
        u.members.present = others ||| single s.number ∧ u.members.awaited = others ∧
        (others = 0 → u.state = .member ∧ u.members.changed = s.members.changed) ∧
        (others ≠ 0 → u.state = .settling ∧ u.members.timer = true ∧ u.members.changed = true))) ∧
  ∀ (s : State) (pub : Publication) (drove : ReplyCode) (rcl : Option RecordTag) (v : Tag) (t : Tally),
    s.state = .leaving → pub.body = .leave →
    s.bus.phase = .tenure pub (some (.offer .leave)) drove rcl → s.outstanding .leave = some v →
    s.walkApart v →
    ∃ u, exec (.leaveTally t) s = .next u ∧ u.state = .unjoined ∧ u.decoder.frozen = false ∧
      u.decoder.table = s.decoder.table ∧ u.decoder.sizeCode = s.decoder.sizeCode ∧
      u.members.present = 0 ∧ u.members.awaited = 0 ∧ u.members.ready = [] ∧
      u.members.changed = s.members.changed ∧ u.outcome v = some (.ok, []) ∧ u.bus.phase = .free ∧
      u.faults = s.faults

/-- The tally of another station's JOIN (R45, R46, R47, R59): without a REFUSE the joiner enters the
membership set and the mark is set; with one nothing of the membership and no copy changes. Without one, the
READ and the clean HELD copies of the joiner's lines are dropped, and the ready list gains an entry with the
dirty HELD slots of its lines and the positions of their eviction records, or, with neither, the READY offer
is made (said where no position is free, so that no return is turned in the same step). -/
def Obligations.JoinOfAnotherStation : Prop :=
  ∀ (s : State) (pub : Publication) (code : BitVec 3) (image : WindowTable) (t : Tally) (rd : Reading),
    s.canonical → pub.body = .join code image → s.atTally pub none t rd →
    ∃ u, exec (.joinTally t) s = .next u ∧ u.bus.phase = .free ∧ u.state = s.state ∧
      u.decoder = s.decoder ∧ u.faults = s.faults ∧ u.members.awaited = s.members.awaited ∧
      (rd.refusers = 0 →
        u.members.present = s.members.present ||| single pub.publisher ∧ u.members.changed = true) ∧
      (rd.refusers ≠ 0 → u.members.present = s.members.present ∧
        u.members.changed = s.members.changed ∧ u.positions = s.positions ∧
        (s.state ≠ .leaving → s.sameCopies u ∧ u.loans = s.loans)) ∧
      (rd.refusers = 0 → s.freePosition = none →
        (s.state ≠ .leaving → ∀ k, u.slotAt k =
          if s.lineHome (s.slotAt k).line = some pub.publisher ∧
            ((s.slotAt k).state = .read ∨ (s.slotAt k).state = .held ∧ (s.slotAt k).dirty = false)
          then (s.slotAt k).voided else s.slotAt k) ∧
        ∃ e : ReadyEntry, e.joiner = pub.publisher ∧
          (∀ k, k ∈ e.listed ↔ (s.slotAt k).state = .held ∧ (s.slotAt k).dirty = true ∧
            s.lineHome (s.slotAt k).line = some pub.publisher) ∧
          (∀ p, p ∈ e.owed ↔ ∃ r, s.recordAt p = some r ∧ (r.kind = .ret ∨ r.kind = .release) ∧
            s.lineHome r.line = some pub.publisher) ∧
          (e ∈ u.members.ready ∨
            e.listed = [] ∧ e.owed = [] ∧ Offer.ready pub.publisher ∈ u.bus.offers)) ∧
      (∀ k, (s.dropForJoiner pub.publisher).slotAt k =
        if s.lineHome (s.slotAt k).line = some pub.publisher ∧
          ((s.slotAt k).state = .read ∨ (s.slotAt k).state = .held ∧ (s.slotAt k).dirty = false)
        then (s.slotAt k).voided else s.slotAt k)

/-- The tally of a READY for this station (R48): an awaited publisher leaves the awaited set, and the last
one makes the station MEMBER with its timer stopped, and the requests that waited for that are taken up in the
same step (R40); with none waiting, nothing else changes. A READY for another station, of a station not
awaited, or outside SETTLING has no effect. -/
def Obligations.ReadySettlesTheStation : Prop :=
  ∀ (s : State) (pub : Publication) (target : Station) (t : Tally) (rd : Reading),
    pub.body = .ready target → s.atTally pub none t rd → rd.silent pub.publisher = false →
    ∃ u, exec (.readyTally t) s = .next u ∧ u.bus.phase = .free ∧
      (s.noneWaits → s.sameMemory u ∧ s.sameQueues u ∧ u.positions = s.positions ∧
        (s.state ≠ .leaving → s.sameCopies u ∧ u.loans = s.loans)) ∧
      (u.state = .member → s.state = .settling → ∀ x, s.awaitsMember x → u.progress x ≠ some .waitsMember) ∧
      u.members.present = s.members.present ∧ u.faults = s.faults ∧
      (target = s.number → s.state = .settling → inSet s.members.awaited pub.publisher = true →
        (s.members.awaited &&& ~~~(single pub.publisher) = 0 →
          u.state = .member ∧ u.members.awaited = 0 ∧ u.members.timer = false) ∧
        (s.members.awaited &&& ~~~(single pub.publisher) ≠ 0 → u.state = .settling ∧
          u.members.awaited = s.members.awaited &&& ~~~(single pub.publisher))) ∧
      (target ≠ s.number ∨ s.state ≠ .settling ∨ inSet s.members.awaited pub.publisher = false →
        u.state = s.state ∧ u.members.awaited = s.members.awaited)

/-- Departures at a tally (R31, R42, R54, R59): the stations found silent leave the membership set and
the awaited set and the mark is set, whatever the tenure but a JOIN, unless the notices of the departure
halt the station. A LEAVE of another station is its departure (R53). The effects of a departure d are said
at the tallies that have no other effect, in a station in which nothing waits on the records that close: READ copies of departed homes are VOID (R55); records of departed
homes close HOME_ABSENT, a record that waits for a departed supplier is offered anew, a recall that does
closes and its line is lost, fences of departed suppliers are lifted (R56, R100); loan entries lose the
departed stations, and are lost where one held or owed the line, with a LINE_LOST notice for each that did
(R57); an OPERATE that awaits the data of one executes with its lost flag set (R58), one the home refuses put
through the bank too (log entry 34) and nothing stored before the run's end (log entry 8), the model's choices; a
SETTLING station that awaits no other is MEMBER (R54), and the requests that waited for that are taken up in the
same step (R40, R48); and a LEAVING one left with a HELD slot of an absent home abandons its leave, the drain
stopping where it stands: the entries marked lost stay (R52, R57). -/
def Obligations.DeparturesLeaveTheMembership : Prop :=
  (∀ (s : State) (pub : Publication) (own : Option Source) (drove : ReplyCode) (rcl : Option RecordTag)
    (t : Tally) (rd : Reading),
    s.membershipLaw → s.faultsBounded → s.bus.phase = .tenure pub own drove rcl →
    rd = s.reading pub.body.kind drove t → s.state.replies = true → own ≠ some (.offer .leave) →
    own ≠ some (.offer .join) → pub.body.kind ≠ .join →
    ∃ u, exec (tallyOf pub.body.kind t) s = .next u ∧
      (s.departedAt rd ≠ 0 → u.state ≠ .halted →
        u.members.present &&& s.departedAt rd = 0 ∧ u.members.awaited &&& s.departedAt rd = 0 ∧
        u.members.changed = true) ∧
      (pub.body = .leave → own = none → rd.silent pub.publisher = false → s.departedAt rd = 0 →
        inSet s.members.present pub.publisher = true → u.state ≠ .halted →
        inSet u.members.present pub.publisher = false ∧ u.members.changed = true)) ∧
  (∀ (s : State) (pub : Publication) (drove : ReplyCode) (t : Tally) (rd : Reading) (d : StationSet)
    (losses : List Notice),
    s.canonical →
    (∀ p r, s.recordAt p = some r → s.homedIn d r.line = true ∨ namedIn d r.supplier = true →
      s.nothingWaits r) → (s.state = .settling → s.noneWaits) →
    s.membershipLaw → s.faultsBounded → s.bus.phase = .tenure pub none drove none →
    rd = s.reading pub.body.kind drove t → s.state.replies = true → s.departsAt pub rd d → d ≠ 0 →
    losses = (allStations.filter fun x => inSet d x && 0 < s.lossesTo x).map
      (fun x => { kind := .lineLost, station := some x, line := none, count := some (s.lossesTo x) }) →
    ∃ u, exec (tallyOf pub.body.kind t) s = .next u ∧ s.sameMemory u ∧
      (2 < (s.faults ++ losses).length → u.state = .halted) ∧
      ((s.faults ++ losses).length ≤ 2 → u.faults = s.faults ++ losses ∧
        -- R55
        (∀ k, s.unnamed k → (s.slotAt k).state = .read → s.homedIn d (s.slotAt k).line = true →
          u.slotAt k = (s.slotAt k).voided) ∧
        (∀ k, s.unnamed k → (s.slotAt k).state = .held → u.slotAt k = s.slotAt k) ∧
        -- R56, R100
        (∀ p r, s.recordAt p = some r → s.homedIn d r.line = true → u.positions[p] = .free ∧
          (∀ k, r.slot = some k → s.namedOnlyBy k p →
            (u.slotAt k).state = if r.kind = .ret ∨ r.kind = .release then .held else .void) ∧
          (∀ v rq, v ∈ r.tags → s.entry v = .opened rq (.onRecord p) → s.waitsOnlyOn v p →
            u.entry v = .done .homeAbsent [])) ∧
        (∀ p r x, s.recordAt p = some r → s.homedIn d r.line = false → r.phase = .waitingData →
          r.supplier = some x → inSet d x = true →
          (r.kind = .recallRead ∨ r.kind = .recallAll → u.positions[p] = .free ∧
            ∀ i k e, u.state ≠ .leaving → s.homedHere r.line = some i → s.loanKey i = some k →
              (s.loanWay k).entry = some e →
              ∃ v, (u.loanWay k).entry = some v ∧ v.busy = false ∧ v.lost = true) ∧
          (r.kind ≠ .recallRead → r.kind ≠ .recallAll → r.retry + 1 < 32 →
            u.recordAt p = some (Record.again r) ∧ Offer.record p ∈ u.bus.offers)) ∧
        (∀ p r, s.recordAt p = some r → s.homedIn d r.line = false →
          r.phase = .waitingBus ∨ namedIn d r.supplier = false → u.recordAt p = some r) ∧
        (∀ (p : RecordTag) l x, s.positions[p] = .fenced l x →
          u.positions[p] = if inSet d x then .free else .fenced l x) ∧
        -- R57
        (∀ k e v, u.state ≠ .leaving → (s.loanWay k).entry = some e →
          (∀ p r, s.recordAt p = some r → r.kind ≠ .recallRead ∧ r.kind ≠ .recallAll) →
          v = { e with
            holders := e.holders &&& ~~~d,
            heldBy := if namedIn d e.heldBy then none else e.heldBy,
            owedBy := if namedIn d e.owedBy then none else e.owedBy,
            lost := e.lost || namedIn d e.heldBy || namedIn d e.owedBy ||
              allStations.any (fun x => inSet d x && s.operationAwaits e.line x) } →
          (u.loanWay k).entry =
            if v.holders = 0 ∧ v.heldBy = none ∧ v.owedBy = none ∧ v.lost = false ∧ v.busy = false ∧
              s.homeHas e.line = false then none else some v) ∧
        -- R58
        (∀ (h : Fin 8) l x g op a lost e, s.homeQueue.entries[h] = .operation l x g op (some a) lost e →
          inSet d a = true →
          u.homeQueue.entries[h] = .operation l x g op none true e ∧
          ∀ res, s.bank.run = none → s.resolveLine l = some res →
            (∀ (h' : Fin 8) l' x' g' op' a' lost' e', s.homeQueue.entries[h'] =
              .operation l' x' g' op' (some a') lost' e' → inSet d a' = true → h' = h) →
            u.bank.run = some { owner := .operation h, op := operationOp op l, line := l, lost := true,
                                refusal := operateRefusal (operationOp op l) res.entry }) ∧
        -- R54, R52
        (s.state = .member → u.state = .member) ∧
        (s.state = .settling → u.state =
          if s.members.awaited &&& ~~~d = 0 then .member else .settling) ∧
        (s.state = .leaving → (u.retainedHeld = 0 → u.state = .leaving) ∧
          (0 < u.retainedHeld → u.state = .member ∧ Offer.leave ∉ u.bus.offers ∧
            ∀ v, s.outstanding .leave = some v → s.walkApart v →
              (∀ q r, s.recordAt q = some r → v ∉ r.tags) → s.homeOf v = none →
              (∀ (q : RecordTag) j, s.positions[q] ≠ .reserved (.successor v j)) →
              u.outcome v = some (.retainedLines, [BitVec.ofNat 32 u.retainedHeld]))))) ∧
  ∀ (s : State) (pub : Publication) (drove : ReplyCode) (t : Tally) (rd : Reading) (d : StationSet),
    s.membershipLaw → s.state = .settling → s.bus.phase = .tenure pub none drove none →
    rd = s.reading pub.body.kind drove t → s.departsAt pub rd d → d ≠ 0 → s.members.awaited &&& ~~~d = 0 →
    ∃ u, exec (tallyOf pub.body.kind t) s = .next u ∧ (u.state ≠ .halted → u.state = .member ∧
      ∀ x, s.awaitsMember x → u.progress x ≠ some .waitsMember)

/-- The tally of a tenure of unassigned kind shows presence and has no other effect (R31, R180). -/
def Obligations.UnassignedTenureHasNoEffect : Prop :=
  ∀ (s : State) (pub : Publication) (code : BitVec 4) (own : Option Source) (t : Tally) (rd : Reading),
    pub.body = .unassigned code → s.atTally pub own t rd → own ≠ some (.offer .join) →
    own ≠ some (.offer .leave) →
    ∃ u, exec (.unassignedKindTally t) s = .next u ∧ u.bus.phase = .free ∧ u.state = s.state ∧
      u.members.present = s.members.present ∧ u.faults = s.faults ∧ s.sameMemory u ∧ s.sameQueues u ∧
      u.positions = s.positions ∧ (s.state ≠ .leaving → s.sameCopies u ∧ u.loans = s.loans)

/-! ### Expiries, ends of accesses, follow-up steps -/

/-- A data deadline expires (R99, R100, R137): every waiting tag of the record completes NO_ANSWER, the position
is fenced with the record's line and supplier, and a SUPPLY_OVERDUE notice names them; with no request held back
on the line a slot to be filled is VOID, and the entry of a recall's line is marked lost, no longer busy, its
holders and held_by station as they were. Where the notice is the third the station halts, after those
completions (R173, R174). -/
def Obligations.DeadlineExpiryFencesThePosition : Prop :=
  ∀ (s : State) (p : RecordTag) (r : Record) (x : Station), s.canonical →
    s.recordAt p = some r → r.phase = .waitingData → r.deadline = true → r.supplier = some x →
    r.kind ∈ [Kind.fetch, .fetchOwn, .readDirect, .operate, .recallRead, .recallAll] →
    s.state ≠ .halted → s.faultsBounded →
    ∃ u, exec (.dataDeadlineExpiry p) s = .next u ∧
      (∀ v rq pr, v ∈ r.tags → s.entry v = .opened rq pr → u.entry v = .done .noAnswer []) ∧
      (s.faults.length < 2 → u.positions[p] = .fenced r.line x ∧ u.state = s.state ∧
        u.faults = s.faults ++ [{ kind := .supplyOverdue, station := some x, line := some r.line,
                                  count := none }] ∧
        (s.quiet r.line → (∀ q : RecordTag, q ≠ p → u.positions[q] = s.positions[q]) ∧
          s.sameMemory u ∧ s.sameQueues u ∧
          (∀ k, r.kind = .fetch ∨ r.kind = .fetchOwn → r.slot = some k → (u.slotAt k).state = .void) ∧
          ∀ i k e, r.kind = .recallRead ∨ r.kind = .recallAll → s.state ≠ .leaving →
            s.homedHere r.line = some i → s.loanKey i = some k → (s.loanWay k).entry = some e →
            u.loanWay k = { s.loanWay k with entry := some { e with busy := false, lost := true } })) ∧
      (s.faults.length = 2 → u.state = .halted ∧ u.faults = s.faults ∧
        ∀ q : RecordTag, u.positions[q] = .free)

/-- The settle timer expires (R49): a SETTLE_OVERDUE notice names the lowest station awaited and counts
them, the awaited set is empty and the station MEMBER, and the requests that waited for that are taken up in the
same step (R40); or, as the third notice, the station halts. -/
def Obligations.SettleTimerExpiryMakesAMember : Prop :=
  ∀ (s : State), s.state = .settling → s.members.timer = true → s.faultsBounded →
    ∃ u, exec .settleTimerExpiry s = .next u ∧
      (s.noneWaits ∨ s.faults.length = 2 → s.sameMemory u) ∧
      (s.faults.length < 2 → u.state = .member ∧ u.members.awaited = 0 ∧ u.members.timer = false ∧
        u.members.present = s.members.present ∧
        (s.noneWaits → u.positions = s.positions ∧ s.sameCopies u ∧ s.sameQueues u) ∧
        (∀ x, s.awaitsMember x → u.progress x ≠ some .waitsMember) ∧
        u.faults = s.faults ++ [{
          kind := .settleOverdue, station := allStations.find? (inSet s.members.awaited),
          line := none, count := some (setCount s.members.awaited) }]) ∧
      (s.faults.length = 2 → u.state = .halted ∧ u.faults = s.faults)

/-- The oldest supply read ends for an awaiting entry (R132, R133): without error the entry is ready with
the line's words; with one it is ready with MEMORY_ERROR and zero words, a notice names its target
and line, and the loan is corrected: the target leaves the holders after a FETCH, and is held_by no more after a
FETCH_OWN, and the entry is freed when nothing else keeps it. At the tally of the DATA published from an entry that
entry becomes free and leaves the order of the ready ones, whether the DATA's target was present or silent (R37,
R115, R118); unless a departure read there halts the station, the other entries and their order stay, and with no
departure a DATA for another station changes nothing else here, but for what the home of its line does with it. -/
def Obligations.SupplyReadEndReadiesTheEntry : Prop :=
  (∀ (s : State) (e : Fin 4) (ws : Line) (rest : List Access) (d : Supply) (k : Kind) (err : Bool),
    popAccess asSupplyRead s.bank.inFlight = some ((some e, ws), rest) →
    s.supply.entries[e] = .awaiting d k → s.state ≠ .halted → s.faults.length < 2 →
    ∃ u d', exec (.supplyReadEnd err) s = .next u ∧ u.supply.entries[e] = .ready d' ∧
      e ∈ u.supply.order ∧ u.bank.inFlight = rest ∧ d'.line = d.line ∧ d'.tag = d.tag ∧
      d'.data.target = d.data.target ∧ s.sameMemory u ∧ u.positions = s.positions ∧ u.state = s.state ∧
      (err = false → d'.data.status = d.data.status ∧
        d'.data.words = sliceLine ws d.data.first.toNat d.data.count.toNat ∧ u.faults = s.faults) ∧
      (err = true → d'.data.status = Status.code .memoryError ∧
        d'.data.words = List.replicate d.data.count.toNat 0 ∧
        u.faults = s.faults ++ [{ kind := .memoryError, station := some d.data.target,
                                  line := some d.line, count := none }] ∧
        ∀ i w v v', s.canonical → s.state ≠ .leaving → s.homedHere d.line = some i → s.loanKey i = some w →
          (s.loanWay w).entry = some v →
          v' = (if k = .fetch then { v with holders := v.holders &&& ~~~(single d.data.target) }
            else if k = .fetchOwn ∧ v.heldBy = some d.data.target then { v with heldBy := none } else v) →
          (u.loanWay w).entry = if v'.holders = 0 ∧ v'.heldBy = none ∧ v'.owedBy = none ∧ v'.lost = false ∧
            v'.busy = false ∧ s.homeHas v'.line = false then none else some v')) ∧
  ∀ (s : State) (pub : Publication) (d : Data) (e : Fin 4) (drove : ReplyCode) (rcl : Option RecordTag)
    (t : Tally) (rd : Reading),
    pub.body = .data d → s.bus.phase = .tenure pub (some (.supply e)) drove rcl →
    rd = s.reading .data drove t → s.state.replies = true → rd.silent pub.publisher = false →
    ∃ u, exec (.dataTally t) s = .next u ∧ u.bus.phase = .free ∧ u.supply.entries[e] = .free ∧
      e ∉ u.supply.order ∧
      (u.state ≠ .halted → u.supply.order = s.supply.order.filter (· ≠ e) ∧
        ∀ x : Fin 4, x ≠ e → u.supply.entries[x] = s.supply.entries[x]) ∧
      (s.departedAt rd = 0 → u.faults = s.faults ∧ u.state = s.state ∧
        (d.target ≠ s.number → u.positions = s.positions ∧ u.homeQueue = s.homeQueue ∧
          (s.state ≠ .leaving → s.sameCopies u) ∧
          (s.homedHere pub.line = none → u.bank = s.bank ∧ (s.state ≠ .leaving → u.loans = s.loans))))

/-- A free position goes to the needs in the order of R85. With a joiner's return waiting it goes to the first slot
on the list (R46): the slot is EVICTING with a RETURN record in that position, offered. With none, it goes to the
local request that waits for one and was taken first (none ahead of it wanting one: one merely due to be handled
anew wants one too, log entry 1), whose record is made in that position and offered: a READ_DIRECT, WRITE_THROUGH or
OPERATE of an UNCACHED line, a WRITE_THROUGH of a COHERENT_WT one, a CLAIM on a READ copy, a FETCH or FETCH_OWN of a
miss into the VOID way of lowest number (R69, R70, R74, R86, R87); the flush walk stands at the place of its FLUSH_ALL, and turns its first
slot (R80). With none of these in LEAVING the drain has it (R51): the first slot that is HELD with its home present,
by set and way; with no such slot the first loan entry neither lost nor busy, which gets a RECALL_ALL and is busy.
And the drain of LEAVING, once complete, makes
the LEAVE offer (R51); when it is complete is the model's reading of R51 (State.drained, log entry 26): every slot
VOID, no loan entry, every position free (fences counted), no supply and no home queue entry, the ready list empty,
and no request taken before the LEAVE command open. -/
def Obligations.ReturnIsGrantedFirstAndDrainOffersLeave : Prop :=
  (∀ (s : State) (p : RecordTag) (k : Nat), s.canonical → s.freePosition = some p →
    s.members.ready.findSome? (fun e => e.listed.head?) = some k →
    ∃ u, exec .positionGrant s = .next u ∧
      u.recordAt p = some (newRecord .ret (s.slotAt k).line (some k) [] .none) ∧
      Offer.record p ∈ u.bus.offers ∧
      (∀ q : RecordTag, q ≠ p → u.positions[q] = s.positions[q]) ∧
      (s.state ≠ .leaving → u.slotAt k = { s.slotAt k with state := .evicting } ∧
        ∀ j, j ≠ k → u.slotAt j = s.slotAt j) ∧
      s.sameStation u ∧ s.sameMemory u ∧ s.sameQueues u) ∧
  (∀ (s : State) (p : RecordTag) (t : Tag) (r : Request) (a : Word) (res : Resolved) (kind : Kind)
    (slot : Option Nat) (payload : Payload),
    s.canonical → s.freePosition = some p → (∀ e ∈ s.members.ready, e.listed = []) →
    s.state = .member ∨ s.state = .leaving ∧ s.afterLeave t = false →
    t ∈ s.port.taken → s.entry t = .opened r .position → (∀ x ∈ s.earlier t, s.wantsPosition x = false) →
    s.walkApart t → s.reservedFor (.head t) = none → requestAddress r = some a →
    s.resolve a.toNat = some res → res.entry.mode ≠ .priv → res.here = false →
    s.heldBack t res.line = false → s.recordOf res.line = none →
    (¬ res.copied ∧ slot = none ∧ (∃ n, r = .read a n ∧ kind = .readDirect ∧
        payload = .words (BitVec.ofNat 4 (wordIndex a)) n) ∨
      ¬ res.copied ∧ slot = none ∧ (∃ op, r = .operation op ∧ kind = .operate ∧
        payload = .operate (opOperation op)) ∨
      res.entry.mode ≠ .coherentWB ∧ slot = none ∧ isWrite r = true ∧ kind = .writeThrough ∧
        payload = writePayload r ∨
      payload = .none ∧ res.entry.mode = .coherentWB ∧ isWrite r = true ∧ kind = .claim ∧
        (∃ k, slot = some k ∧ s.slotOf res.line = some k ∧ (s.slotAt k).state = .read) ∨
      payload = .none ∧ res.copied ∧ s.slotOf res.line = none ∧ s.setQueued t res.line = false ∧
        (∃ k, slot = some k ∧ k ∈ slotsOf res.line ∧ (s.slotAt k).state = .void ∧
          ∀ j ∈ slotsOf res.line, j < k → (s.slotAt j).state ≠ .void) ∧
        ((∃ n, r = .read a n) ∧ kind = .fetch ∨
          isWrite r = true ∧ res.entry.mode = .coherentWB ∧ kind = .fetchOwn)) →
    ∃ u, exec .positionGrant s = .next u ∧
      u.recordAt p = some (newRecord kind res.line slot [t] payload) ∧ Offer.record p ∈ u.bus.offers ∧
      u.entry t = .opened r (.onRecord p) ∧
      (∀ k, slot = some k → (u.slotAt k).line = res.line ∧ (u.slotAt k).state =
        if kind = .claim then .upgrading else if kind = .fetch then .filling else .owning) ∧
      (∀ q : RecordTag, q ≠ p → u.positions[q] = s.positions[q]) ∧
      s.sameStation u ∧ s.sameMemory u ∧ s.sameQueues u ∧ s.sameEntriesBut u t) ∧
  (∀ (s : State) (p : RecordTag) (t : Tag) (w : Walk) (k : Nat) (ks : List Nat),
    s.canonical → s.freePosition = some p → (∀ e ∈ s.members.ready, e.listed = []) →
    t ∈ s.port.taken → s.entry t = .opened .flushAll .walk → (∀ x ∈ s.earlier t, s.wantsPosition x = false) →
    s.copy.walk = some w → w.tag = t → w.slots = k :: ks → (s.slotAt k).state = .held →
    ∃ u v, exec .positionGrant s = .next u ∧
      u.recordAt p = some (newRecord (if (s.slotAt k).dirty then .ret else .release) (s.slotAt k).line
        (some k) [] .none) ∧
      Offer.record p ∈ u.bus.offers ∧ u.slotAt k = { s.slotAt k with state := .evicting } ∧
      u.copy.walk = some v ∧ v.tag = t ∧ v.records = w.records ++ [p] ∧ k ∉ v.slots ∧
      u.entry t = .opened .flushAll .walk ∧ (∀ q : RecordTag, q ≠ p → u.positions[q] = s.positions[q]) ∧
      s.sameStation u ∧ s.sameMemory u ∧ s.sameQueues u) ∧
  (∀ (s : State) (p : RecordTag), s.canonical → s.state = .leaving → s.freePosition = some p →
    (∀ e ∈ s.members.ready, e.listed = []) → (∀ x ∈ s.port.taken, s.wantsPosition x = false) →
    (∀ k, (s.slotAt k).state = .held → s.homePresent (s.slotAt k).line = true →
      (∀ j, j < k → ¬ ((s.slotAt j).state = .held ∧ s.homePresent (s.slotAt j).line = true)) →
      ∃ u, exec .positionGrant s = .next u ∧
        u.recordAt p = some (newRecord (if (s.slotAt k).dirty then .ret else .release) (s.slotAt k).line
          (some k) [] .none) ∧
        Offer.record p ∈ u.bus.offers ∧ u.slotAt k = { s.slotAt k with state := .evicting } ∧
        (∀ q : RecordTag, q ≠ p → u.positions[q] = s.positions[q]) ∧
        s.sameStation u ∧ s.sameMemory u ∧ s.sameQueues u) ∧
    (∀ k e, (∀ j, ¬ ((s.slotAt j).state = .held ∧ s.homePresent (s.slotAt j).line = true)) →
      (s.loanWay k).entry = some e → e.lost = false → e.busy = false →
      (∀ j v, j < k → (s.loanWay j).entry = some v → v.lost = true ∨ v.busy = true) →
      s.loanKey e.index = some k →
      ∃ u, exec .positionGrant s = .next u ∧
        u.recordAt p = some (newRecord .recallAll e.line none [] .none) ∧ Offer.record p ∈ u.bus.offers ∧
        (u.loanWay k).entry = some { e with busy := true } ∧
        (∀ q : RecordTag, q ≠ p → u.positions[q] = s.positions[q]) ∧
        s.sameStation u ∧ s.sameMemory u ∧ s.sameQueues u)) ∧
  ∀ (s : State) (t : Tag), s.state = .leaving → Offer.leave ∉ s.bus.offers →
    s.outstanding .leave = some t → s.drained t = true →
    ∃ u, exec .drainComplete s = .next u ∧ Offer.leave ∈ u.bus.offers ∧ s.sameStation u ∧
      s.sameMemory u ∧ s.sameQueues u ∧ u.positions = s.positions

/-- A READ that was held back on its line and finds its copy readable, with nothing ahead of it on the
line, completes with the slot's words when it is taken up again (R66, R67). The DATA that fills a FETCH's slot
takes up the WRITE held back on the line in the same step, as 9.8 shows at its step 8 (R69, R102): the waiting READ
completes, the slot is UPGRADING, and the WRITE waits on a CLAIM record in the position just freed. The record is
none of the flush walk's, which are RETURN and RELEASE records (R80): its end lets no other walk start. -/
def Obligations.HeldBackReadIsTakenUp : Prop :=
  (∀ (s : State) (t : Tag) (a : Word) (n : BitVec 5) (res : Resolved) (k : Nat), s.canonical →
    s.state = .member → s.entry t = .opened (.read a n) .line → s.resolve a.toNat = some res →
    res.entry.mode ≠ .priv → res.copied → s.heldBack t res.line = false →
    s.slotlessRecord res.line = false → s.slotOf res.line = some k →
    (s.slotAt k).state = .read ∨ (s.slotAt k).state = .held →
    ∃ u, exec (.waitingRequestResumed t) s = .next u ∧
      u.entry t = .done (if (s.slotAt k).lost then .lostData else .ok)
        (sliceLine (s.slotAt k).words (wordIndex a) n.toNat) ∧
      u.slotAt k = { s.slotAt k with rank := 0 } ∧ s.sameCopiesBut u k ∧ s.sameStation u ∧
      s.sameMemory u ∧ s.sameQueues u ∧ s.sameEntriesBut u t) ∧
  ∀ (s : State) (pub : Publication) (d : Data) (r : Record) (k : Nat) (v w : Tag) (a b : Word)
    (n m : BitVec 5) (en : BitVec 64) (ws : List Word) (res : Resolved) (t : Tally) (rd : Reading),
    s.canonical → s.state = .member → pub.body = .data d → d.target = s.number →
    s.atTally pub none t rd → rd.silent pub.publisher = false → s.homedHere pub.line = none →
    s.matchRecord pub d = some r → r.kind = .fetch → r.slot = some k → r.tags = [v] →
    s.entry v = .opened (.read a n) (.onRecord pub.tag) → wholeLineData d → s.onlyRecord pub.tag pub.line →
    s.slotOf pub.line = some k → (s.slotAt k).state = .filling →
    s.entry w = .opened (.write b m en ws) .line → w ∈ s.port.taken → s.walkApart w →
    s.resolve b.toNat = some res → res.line = pub.line → res.entry.mode = .coherentWB →
    (∀ x rq, s.entry x = .opened rq .line → requestLine rq = some pub.line → x = w) →
    (∀ (e : Fin 8) l x c, s.homeQueue.entries[e] = .request l x c → l ≠ pub.line) →
    s.heldBack w pub.line = false → s.returnWaits = false →
    (∀ x, x ∈ s.earlier w → s.wantsPosition x = false) → s.reservedFor (.head w) = none →
    s.freePosition = none → (∀ f, s.copy.walk = some f → pub.tag ∉ f.records) →
    ∃ u, exec (.dataTally t) s = .next u ∧
      u.entry v = .done (if d.status = 2 then .lostData else .ok)
        (sliceLine (lineOf fun i => d.words.getD i 0) (wordIndex a) n.toNat) ∧
      u.entry w = .opened (.write b m en ws) (.onRecord pub.tag) ∧
      u.recordAt pub.tag = some (newRecord .claim pub.line (some k) [w] .none) ∧
      Offer.record pub.tag ∈ u.bus.offers ∧ (u.slotAt k).state = .upgrading ∧
      (u.slotAt k).words = (lineOf fun i => d.words.getD i 0) ∧
      (∀ q : RecordTag, q ≠ pub.tag → u.positions[q] = s.positions[q]) ∧ s.sameMemory u ∧ s.sameQueues u

/-- Every step keeps what stands while a tenure is under way (R83, R116, R125, R126): records of line kinds alone;
reservations only for the line tenure of another station that is under way, one of each queue at most; and the
exhaustion recall noted with a tenure a RECALL_ALL not yet published. It holds after reset. -/
def Obligations.StepKeepsTheTenureLaw : Prop :=
  (∀ s u : State, s.tenureLaw → step s = .next u → u.tenureLaw) ∧ State.reset.tenureLaw
end

