-- ==== Sys2Proof/Laws/State.lean ====
section
/-! SUPPORT. The record updates of Machine/: what each leaves in every field of State, each by rfl. -/
namespace Sys2Proof.Machine

/-! ### setEntry -/

@[simp] theorem State.pending_setEntry (s : State) (t : Tag) (e : PortEntry) :
    (s.setEntry t e).pending = s.pending := rfl
@[simp] theorem State.number_setEntry (s : State) (t : Tag) (e : PortEntry) :
    (s.setEntry t e).number = s.number := rfl
@[simp] theorem State.state_setEntry (s : State) (t : Tag) (e : PortEntry) :
    (s.setEntry t e).state = s.state := rfl
@[simp] theorem State.decoder_setEntry (s : State) (t : Tag) (e : PortEntry) :
    (s.setEntry t e).decoder = s.decoder := rfl
@[simp] theorem State.bus_setEntry (s : State) (t : Tag) (e : PortEntry) :
    (s.setEntry t e).bus = s.bus := rfl
@[simp] theorem State.members_setEntry (s : State) (t : Tag) (e : PortEntry) :
    (s.setEntry t e).members = s.members := rfl
@[simp] theorem State.positions_setEntry (s : State) (t : Tag) (e : PortEntry) :
    (s.setEntry t e).positions = s.positions := rfl
@[simp] theorem State.copy_setEntry (s : State) (t : Tag) (e : PortEntry) :
    (s.setEntry t e).copy = s.copy := rfl
@[simp] theorem State.supply_setEntry (s : State) (t : Tag) (e : PortEntry) :
    (s.setEntry t e).supply = s.supply := rfl
@[simp] theorem State.loans_setEntry (s : State) (t : Tag) (e : PortEntry) :
    (s.setEntry t e).loans = s.loans := rfl
@[simp] theorem State.homeQueue_setEntry (s : State) (t : Tag) (e : PortEntry) :
    (s.setEntry t e).homeQueue = s.homeQueue := rfl
@[simp] theorem State.bank_setEntry (s : State) (t : Tag) (e : PortEntry) :
    (s.setEntry t e).bank = s.bank := rfl
@[simp] theorem State.port_setEntry (s : State) (t : Tag) (e : PortEntry) :
    (s.setEntry t e).port = { s.port with entries := s.port.entries.set t e } := rfl
@[simp] theorem State.faults_setEntry (s : State) (t : Tag) (e : PortEntry) :
    (s.setEntry t e).faults = s.faults := rfl
@[simp] theorem State.freeNext_setEntry (s : State) (t : Tag) (e : PortEntry) :
    (s.setEntry t e).freeNext = s.freeNext := rfl

/-! ### opened -/

@[simp] theorem State.pending_opened (s : State) (t : Tag) (r : Request) :
    (s.opened t r).pending = s.pending := rfl
@[simp] theorem State.number_opened (s : State) (t : Tag) (r : Request) :
    (s.opened t r).number = s.number := rfl
@[simp] theorem State.state_opened (s : State) (t : Tag) (r : Request) :
    (s.opened t r).state = s.state := rfl
@[simp] theorem State.decoder_opened (s : State) (t : Tag) (r : Request) :
    (s.opened t r).decoder = s.decoder := rfl
@[simp] theorem State.bus_opened (s : State) (t : Tag) (r : Request) : (s.opened t r).bus = s.bus := rfl
@[simp] theorem State.members_opened (s : State) (t : Tag) (r : Request) :
    (s.opened t r).members = s.members := rfl
@[simp] theorem State.positions_opened (s : State) (t : Tag) (r : Request) :
    (s.opened t r).positions = s.positions := rfl
@[simp] theorem State.copy_opened (s : State) (t : Tag) (r : Request) :
    (s.opened t r).copy = s.copy := rfl
@[simp] theorem State.supply_opened (s : State) (t : Tag) (r : Request) :
    (s.opened t r).supply = s.supply := rfl
@[simp] theorem State.loans_opened (s : State) (t : Tag) (r : Request) :
    (s.opened t r).loans = s.loans := rfl
@[simp] theorem State.homeQueue_opened (s : State) (t : Tag) (r : Request) :
    (s.opened t r).homeQueue = s.homeQueue := rfl
@[simp] theorem State.bank_opened (s : State) (t : Tag) (r : Request) :
    (s.opened t r).bank = s.bank := rfl
@[simp] theorem State.port_opened (s : State) (t : Tag) (r : Request) :
    (s.opened t r).port = { s.port with entries := s.port.entries.set t (.opened r (startProgress r)), taken := s.port.taken ++ [t] } := rfl
@[simp] theorem State.faults_opened (s : State) (t : Tag) (r : Request) :
    (s.opened t r).faults = s.faults := rfl
@[simp] theorem State.freeNext_opened (s : State) (t : Tag) (r : Request) :
    (s.opened t r).freeNext = s.freeNext := rfl

/-! ### addOffer -/

@[simp] theorem State.pending_addOffer (s : State) (o : Offer) :
    (s.addOffer o).pending = s.pending := rfl
@[simp] theorem State.number_addOffer (s : State) (o : Offer) : (s.addOffer o).number = s.number := rfl
@[simp] theorem State.state_addOffer (s : State) (o : Offer) : (s.addOffer o).state = s.state := rfl
@[simp] theorem State.decoder_addOffer (s : State) (o : Offer) :
    (s.addOffer o).decoder = s.decoder := rfl
@[simp] theorem State.bus_addOffer (s : State) (o : Offer) :
    (s.addOffer o).bus = { s.bus with fresh := s.bus.fresh ++ [o] } := rfl
@[simp] theorem State.members_addOffer (s : State) (o : Offer) :
    (s.addOffer o).members = s.members := rfl
@[simp] theorem State.positions_addOffer (s : State) (o : Offer) :
    (s.addOffer o).positions = s.positions := rfl
@[simp] theorem State.copy_addOffer (s : State) (o : Offer) : (s.addOffer o).copy = s.copy := rfl
@[simp] theorem State.supply_addOffer (s : State) (o : Offer) : (s.addOffer o).supply = s.supply := rfl
@[simp] theorem State.loans_addOffer (s : State) (o : Offer) : (s.addOffer o).loans = s.loans := rfl
@[simp] theorem State.homeQueue_addOffer (s : State) (o : Offer) :
    (s.addOffer o).homeQueue = s.homeQueue := rfl
@[simp] theorem State.bank_addOffer (s : State) (o : Offer) : (s.addOffer o).bank = s.bank := rfl
@[simp] theorem State.port_addOffer (s : State) (o : Offer) : (s.addOffer o).port = s.port := rfl
@[simp] theorem State.faults_addOffer (s : State) (o : Offer) : (s.addOffer o).faults = s.faults := rfl
@[simp] theorem State.freeNext_addOffer (s : State) (o : Offer) :
    (s.addOffer o).freeNext = s.freeNext := rfl

/-! ### withdraw -/

@[simp] theorem State.pending_withdraw (s : State) (o : Offer) :
    (s.withdraw o).pending = s.pending := rfl
@[simp] theorem State.number_withdraw (s : State) (o : Offer) : (s.withdraw o).number = s.number := rfl
@[simp] theorem State.state_withdraw (s : State) (o : Offer) : (s.withdraw o).state = s.state := rfl
@[simp] theorem State.decoder_withdraw (s : State) (o : Offer) :
    (s.withdraw o).decoder = s.decoder := rfl
@[simp] theorem State.bus_withdraw (s : State) (o : Offer) :
    (s.withdraw o).bus = { s.bus with offers := s.bus.offers.filter (· ≠ o), fresh := s.bus.fresh.filter (· ≠ o) } := rfl
@[simp] theorem State.members_withdraw (s : State) (o : Offer) :
    (s.withdraw o).members = s.members := rfl
@[simp] theorem State.positions_withdraw (s : State) (o : Offer) :
    (s.withdraw o).positions = s.positions := rfl
@[simp] theorem State.copy_withdraw (s : State) (o : Offer) : (s.withdraw o).copy = s.copy := rfl
@[simp] theorem State.supply_withdraw (s : State) (o : Offer) : (s.withdraw o).supply = s.supply := rfl
@[simp] theorem State.loans_withdraw (s : State) (o : Offer) : (s.withdraw o).loans = s.loans := rfl
@[simp] theorem State.homeQueue_withdraw (s : State) (o : Offer) :
    (s.withdraw o).homeQueue = s.homeQueue := rfl
@[simp] theorem State.bank_withdraw (s : State) (o : Offer) : (s.withdraw o).bank = s.bank := rfl
@[simp] theorem State.port_withdraw (s : State) (o : Offer) : (s.withdraw o).port = s.port := rfl
@[simp] theorem State.faults_withdraw (s : State) (o : Offer) : (s.withdraw o).faults = s.faults := rfl
@[simp] theorem State.freeNext_withdraw (s : State) (o : Offer) :
    (s.withdraw o).freeNext = s.freeNext := rfl

/-! ### withdrawWhere -/

@[simp] theorem State.pending_withdrawWhere (s : State) (f : Offer → Bool) :
    (s.withdrawWhere f).pending = s.pending := rfl
@[simp] theorem State.number_withdrawWhere (s : State) (f : Offer → Bool) :
    (s.withdrawWhere f).number = s.number := rfl
@[simp] theorem State.state_withdrawWhere (s : State) (f : Offer → Bool) :
    (s.withdrawWhere f).state = s.state := rfl
@[simp] theorem State.decoder_withdrawWhere (s : State) (f : Offer → Bool) :
    (s.withdrawWhere f).decoder = s.decoder := rfl
@[simp] theorem State.bus_withdrawWhere (s : State) (f : Offer → Bool) :
    (s.withdrawWhere f).bus = { s.bus with offers := s.bus.offers.filter (fun o => !f o), fresh := s.bus.fresh.filter (fun o => !f o) } := rfl
@[simp] theorem State.members_withdrawWhere (s : State) (f : Offer → Bool) :
    (s.withdrawWhere f).members = s.members := rfl
@[simp] theorem State.positions_withdrawWhere (s : State) (f : Offer → Bool) :
    (s.withdrawWhere f).positions = s.positions := rfl
@[simp] theorem State.copy_withdrawWhere (s : State) (f : Offer → Bool) :
    (s.withdrawWhere f).copy = s.copy := rfl
@[simp] theorem State.supply_withdrawWhere (s : State) (f : Offer → Bool) :
    (s.withdrawWhere f).supply = s.supply := rfl
@[simp] theorem State.loans_withdrawWhere (s : State) (f : Offer → Bool) :
    (s.withdrawWhere f).loans = s.loans := rfl
@[simp] theorem State.homeQueue_withdrawWhere (s : State) (f : Offer → Bool) :
    (s.withdrawWhere f).homeQueue = s.homeQueue := rfl
@[simp] theorem State.bank_withdrawWhere (s : State) (f : Offer → Bool) :
    (s.withdrawWhere f).bank = s.bank := rfl
@[simp] theorem State.port_withdrawWhere (s : State) (f : Offer → Bool) :
    (s.withdrawWhere f).port = s.port := rfl
@[simp] theorem State.faults_withdrawWhere (s : State) (f : Offer → Bool) :
    (s.withdrawWhere f).faults = s.faults := rfl
@[simp] theorem State.freeNext_withdrawWhere (s : State) (f : Offer → Bool) :
    (s.withdrawWhere f).freeNext = s.freeNext := rfl

/-! ### setPosition -/

@[simp] theorem State.pending_setPosition (s : State) (p : RecordTag) (v : Position) :
    (s.setPosition p v).pending = s.pending := rfl
@[simp] theorem State.number_setPosition (s : State) (p : RecordTag) (v : Position) :
    (s.setPosition p v).number = s.number := rfl
@[simp] theorem State.state_setPosition (s : State) (p : RecordTag) (v : Position) :
    (s.setPosition p v).state = s.state := rfl
@[simp] theorem State.decoder_setPosition (s : State) (p : RecordTag) (v : Position) :
    (s.setPosition p v).decoder = s.decoder := rfl
@[simp] theorem State.bus_setPosition (s : State) (p : RecordTag) (v : Position) :
    (s.setPosition p v).bus = s.bus := rfl
@[simp] theorem State.members_setPosition (s : State) (p : RecordTag) (v : Position) :
    (s.setPosition p v).members = s.members := rfl
@[simp] theorem State.positions_setPosition (s : State) (p : RecordTag) (v : Position) :
    (s.setPosition p v).positions = s.positions.set p v := rfl
@[simp] theorem State.copy_setPosition (s : State) (p : RecordTag) (v : Position) :
    (s.setPosition p v).copy = s.copy := rfl
@[simp] theorem State.supply_setPosition (s : State) (p : RecordTag) (v : Position) :
    (s.setPosition p v).supply = s.supply := rfl
@[simp] theorem State.loans_setPosition (s : State) (p : RecordTag) (v : Position) :
    (s.setPosition p v).loans = s.loans := rfl
@[simp] theorem State.homeQueue_setPosition (s : State) (p : RecordTag) (v : Position) :
    (s.setPosition p v).homeQueue = s.homeQueue := rfl
@[simp] theorem State.bank_setPosition (s : State) (p : RecordTag) (v : Position) :
    (s.setPosition p v).bank = s.bank := rfl
@[simp] theorem State.port_setPosition (s : State) (p : RecordTag) (v : Position) :
    (s.setPosition p v).port = s.port := rfl
@[simp] theorem State.faults_setPosition (s : State) (p : RecordTag) (v : Position) :
    (s.setPosition p v).faults = s.faults := rfl
@[simp] theorem State.freeNext_setPosition (s : State) (p : RecordTag) (v : Position) :
    (s.setPosition p v).freeNext = s.freeNext := rfl

/-! ### setSupply -/

@[simp] theorem State.pending_setSupply (s : State) (e : Fin 4) (v : SupplyEntry) :
    (s.setSupply e v).pending = s.pending := rfl
@[simp] theorem State.number_setSupply (s : State) (e : Fin 4) (v : SupplyEntry) :
    (s.setSupply e v).number = s.number := rfl
@[simp] theorem State.state_setSupply (s : State) (e : Fin 4) (v : SupplyEntry) :
    (s.setSupply e v).state = s.state := rfl
@[simp] theorem State.decoder_setSupply (s : State) (e : Fin 4) (v : SupplyEntry) :
    (s.setSupply e v).decoder = s.decoder := rfl
@[simp] theorem State.bus_setSupply (s : State) (e : Fin 4) (v : SupplyEntry) :
    (s.setSupply e v).bus = s.bus := rfl
@[simp] theorem State.members_setSupply (s : State) (e : Fin 4) (v : SupplyEntry) :
    (s.setSupply e v).members = s.members := rfl
@[simp] theorem State.positions_setSupply (s : State) (e : Fin 4) (v : SupplyEntry) :
    (s.setSupply e v).positions = s.positions := rfl
@[simp] theorem State.copy_setSupply (s : State) (e : Fin 4) (v : SupplyEntry) :
    (s.setSupply e v).copy = s.copy := rfl
@[simp] theorem State.supply_setSupply (s : State) (e : Fin 4) (v : SupplyEntry) :
    (s.setSupply e v).supply = { s.supply with entries := s.supply.entries.set e v } := rfl
@[simp] theorem State.loans_setSupply (s : State) (e : Fin 4) (v : SupplyEntry) :
    (s.setSupply e v).loans = s.loans := rfl
@[simp] theorem State.homeQueue_setSupply (s : State) (e : Fin 4) (v : SupplyEntry) :
    (s.setSupply e v).homeQueue = s.homeQueue := rfl
@[simp] theorem State.bank_setSupply (s : State) (e : Fin 4) (v : SupplyEntry) :
    (s.setSupply e v).bank = s.bank := rfl
@[simp] theorem State.port_setSupply (s : State) (e : Fin 4) (v : SupplyEntry) :
    (s.setSupply e v).port = s.port := rfl
@[simp] theorem State.faults_setSupply (s : State) (e : Fin 4) (v : SupplyEntry) :
    (s.setSupply e v).faults = s.faults := rfl
@[simp] theorem State.freeNext_setSupply (s : State) (e : Fin 4) (v : SupplyEntry) :
    (s.setSupply e v).freeNext = s.freeNext := rfl

/-! ### readySupply -/

@[simp] theorem State.pending_readySupply (s : State) (e : Fin 4) (d : Supply) :
    (s.readySupply e d).pending = s.pending := rfl
@[simp] theorem State.number_readySupply (s : State) (e : Fin 4) (d : Supply) :
    (s.readySupply e d).number = s.number := rfl
@[simp] theorem State.state_readySupply (s : State) (e : Fin 4) (d : Supply) :
    (s.readySupply e d).state = s.state := rfl
@[simp] theorem State.decoder_readySupply (s : State) (e : Fin 4) (d : Supply) :
    (s.readySupply e d).decoder = s.decoder := rfl
@[simp] theorem State.bus_readySupply (s : State) (e : Fin 4) (d : Supply) :
    (s.readySupply e d).bus = s.bus := rfl
@[simp] theorem State.members_readySupply (s : State) (e : Fin 4) (d : Supply) :
    (s.readySupply e d).members = s.members := rfl
@[simp] theorem State.positions_readySupply (s : State) (e : Fin 4) (d : Supply) :
    (s.readySupply e d).positions = s.positions := rfl
@[simp] theorem State.copy_readySupply (s : State) (e : Fin 4) (d : Supply) :
    (s.readySupply e d).copy = s.copy := rfl
@[simp] theorem State.supply_readySupply (s : State) (e : Fin 4) (d : Supply) :
    (s.readySupply e d).supply = { entries := s.supply.entries.set e (.ready d), order := s.supply.order.filter (· ≠ e) ++ [e] } := rfl
@[simp] theorem State.loans_readySupply (s : State) (e : Fin 4) (d : Supply) :
    (s.readySupply e d).loans = s.loans := rfl
@[simp] theorem State.homeQueue_readySupply (s : State) (e : Fin 4) (d : Supply) :
    (s.readySupply e d).homeQueue = s.homeQueue := rfl
@[simp] theorem State.bank_readySupply (s : State) (e : Fin 4) (d : Supply) :
    (s.readySupply e d).bank = s.bank := rfl
@[simp] theorem State.port_readySupply (s : State) (e : Fin 4) (d : Supply) :
    (s.readySupply e d).port = s.port := rfl
@[simp] theorem State.faults_readySupply (s : State) (e : Fin 4) (d : Supply) :
    (s.readySupply e d).faults = s.faults := rfl
@[simp] theorem State.freeNext_readySupply (s : State) (e : Fin 4) (d : Supply) :
    (s.readySupply e d).freeNext = s.freeNext := rfl

/-! ### freeSupplyEntry -/

@[simp] theorem State.pending_freeSupplyEntry (s : State) (e : Fin 4) :
    (s.freeSupplyEntry e).pending = s.pending := rfl
@[simp] theorem State.number_freeSupplyEntry (s : State) (e : Fin 4) :
    (s.freeSupplyEntry e).number = s.number := rfl
@[simp] theorem State.state_freeSupplyEntry (s : State) (e : Fin 4) :
    (s.freeSupplyEntry e).state = s.state := rfl
@[simp] theorem State.decoder_freeSupplyEntry (s : State) (e : Fin 4) :
    (s.freeSupplyEntry e).decoder = s.decoder := rfl
@[simp] theorem State.bus_freeSupplyEntry (s : State) (e : Fin 4) :
    (s.freeSupplyEntry e).bus = s.bus := rfl
@[simp] theorem State.members_freeSupplyEntry (s : State) (e : Fin 4) :
    (s.freeSupplyEntry e).members = s.members := rfl
@[simp] theorem State.positions_freeSupplyEntry (s : State) (e : Fin 4) :
    (s.freeSupplyEntry e).positions = s.positions := rfl
@[simp] theorem State.copy_freeSupplyEntry (s : State) (e : Fin 4) :
    (s.freeSupplyEntry e).copy = s.copy := rfl
@[simp] theorem State.supply_freeSupplyEntry (s : State) (e : Fin 4) :
    (s.freeSupplyEntry e).supply = { entries := s.supply.entries.set e .free, order := s.supply.order.filter (· ≠ e) } := rfl
@[simp] theorem State.loans_freeSupplyEntry (s : State) (e : Fin 4) :
    (s.freeSupplyEntry e).loans = s.loans := rfl
@[simp] theorem State.homeQueue_freeSupplyEntry (s : State) (e : Fin 4) :
    (s.freeSupplyEntry e).homeQueue = s.homeQueue := rfl
@[simp] theorem State.bank_freeSupplyEntry (s : State) (e : Fin 4) :
    (s.freeSupplyEntry e).bank = s.bank := rfl
@[simp] theorem State.port_freeSupplyEntry (s : State) (e : Fin 4) :
    (s.freeSupplyEntry e).port = s.port := rfl
@[simp] theorem State.faults_freeSupplyEntry (s : State) (e : Fin 4) :
    (s.freeSupplyEntry e).faults = s.faults := rfl
@[simp] theorem State.freeNext_freeSupplyEntry (s : State) (e : Fin 4) :
    (s.freeSupplyEntry e).freeNext = s.freeNext := rfl

/-! ### setHome -/

@[simp] theorem State.pending_setHome (s : State) (e : Fin 8) (v : HomeEntry) :
    (s.setHome e v).pending = s.pending := rfl
@[simp] theorem State.number_setHome (s : State) (e : Fin 8) (v : HomeEntry) :
    (s.setHome e v).number = s.number := rfl
@[simp] theorem State.state_setHome (s : State) (e : Fin 8) (v : HomeEntry) :
    (s.setHome e v).state = s.state := rfl
@[simp] theorem State.decoder_setHome (s : State) (e : Fin 8) (v : HomeEntry) :
    (s.setHome e v).decoder = s.decoder := rfl
@[simp] theorem State.bus_setHome (s : State) (e : Fin 8) (v : HomeEntry) :
    (s.setHome e v).bus = s.bus := rfl
@[simp] theorem State.members_setHome (s : State) (e : Fin 8) (v : HomeEntry) :
    (s.setHome e v).members = s.members := rfl
@[simp] theorem State.positions_setHome (s : State) (e : Fin 8) (v : HomeEntry) :
    (s.setHome e v).positions = s.positions := rfl
@[simp] theorem State.copy_setHome (s : State) (e : Fin 8) (v : HomeEntry) :
    (s.setHome e v).copy = s.copy := rfl
@[simp] theorem State.supply_setHome (s : State) (e : Fin 8) (v : HomeEntry) :
    (s.setHome e v).supply = s.supply := rfl
@[simp] theorem State.loans_setHome (s : State) (e : Fin 8) (v : HomeEntry) :
    (s.setHome e v).loans = s.loans := rfl
@[simp] theorem State.homeQueue_setHome (s : State) (e : Fin 8) (v : HomeEntry) :
    (s.setHome e v).homeQueue = { s.homeQueue with entries := s.homeQueue.entries.set e v } := rfl
@[simp] theorem State.bank_setHome (s : State) (e : Fin 8) (v : HomeEntry) :
    (s.setHome e v).bank = s.bank := rfl
@[simp] theorem State.port_setHome (s : State) (e : Fin 8) (v : HomeEntry) :
    (s.setHome e v).port = s.port := rfl
@[simp] theorem State.faults_setHome (s : State) (e : Fin 8) (v : HomeEntry) :
    (s.setHome e v).faults = s.faults := rfl
@[simp] theorem State.freeNext_setHome (s : State) (e : Fin 8) (v : HomeEntry) :
    (s.setHome e v).freeNext = s.freeNext := rfl

/-! ### takeHome -/

@[simp] theorem State.pending_takeHome (s : State) (e : Fin 8) (v : HomeEntry) :
    (s.takeHome e v).pending = s.pending := rfl
@[simp] theorem State.number_takeHome (s : State) (e : Fin 8) (v : HomeEntry) :
    (s.takeHome e v).number = s.number := rfl
@[simp] theorem State.state_takeHome (s : State) (e : Fin 8) (v : HomeEntry) :
    (s.takeHome e v).state = s.state := rfl
@[simp] theorem State.decoder_takeHome (s : State) (e : Fin 8) (v : HomeEntry) :
    (s.takeHome e v).decoder = s.decoder := rfl
@[simp] theorem State.bus_takeHome (s : State) (e : Fin 8) (v : HomeEntry) :
    (s.takeHome e v).bus = s.bus := rfl
@[simp] theorem State.members_takeHome (s : State) (e : Fin 8) (v : HomeEntry) :
    (s.takeHome e v).members = s.members := rfl
@[simp] theorem State.positions_takeHome (s : State) (e : Fin 8) (v : HomeEntry) :
    (s.takeHome e v).positions = s.positions := rfl
@[simp] theorem State.copy_takeHome (s : State) (e : Fin 8) (v : HomeEntry) :
    (s.takeHome e v).copy = s.copy := rfl
@[simp] theorem State.supply_takeHome (s : State) (e : Fin 8) (v : HomeEntry) :
    (s.takeHome e v).supply = s.supply := rfl
@[simp] theorem State.loans_takeHome (s : State) (e : Fin 8) (v : HomeEntry) :
    (s.takeHome e v).loans = s.loans := rfl
@[simp] theorem State.homeQueue_takeHome (s : State) (e : Fin 8) (v : HomeEntry) :
    (s.takeHome e v).homeQueue = { entries := s.homeQueue.entries.set e v, order := s.homeQueue.order.filter (· ≠ e) ++ [e] } := rfl
@[simp] theorem State.bank_takeHome (s : State) (e : Fin 8) (v : HomeEntry) :
    (s.takeHome e v).bank = s.bank := rfl
@[simp] theorem State.port_takeHome (s : State) (e : Fin 8) (v : HomeEntry) :
    (s.takeHome e v).port = s.port := rfl
@[simp] theorem State.faults_takeHome (s : State) (e : Fin 8) (v : HomeEntry) :
    (s.takeHome e v).faults = s.faults := rfl
@[simp] theorem State.freeNext_takeHome (s : State) (e : Fin 8) (v : HomeEntry) :
    (s.takeHome e v).freeNext = s.freeNext := rfl

/-! ### setSlot -/

@[simp] theorem State.pending_setSlot (s : State) (k : Nat) (v : Slot) :
    (s.setSlot k v).pending = s.pending := rfl
@[simp] theorem State.number_setSlot (s : State) (k : Nat) (v : Slot) :
    (s.setSlot k v).number = s.number := rfl
@[simp] theorem State.state_setSlot (s : State) (k : Nat) (v : Slot) :
    (s.setSlot k v).state = s.state := rfl
@[simp] theorem State.decoder_setSlot (s : State) (k : Nat) (v : Slot) :
    (s.setSlot k v).decoder = s.decoder := rfl
@[simp] theorem State.bus_setSlot (s : State) (k : Nat) (v : Slot) : (s.setSlot k v).bus = s.bus := rfl
@[simp] theorem State.members_setSlot (s : State) (k : Nat) (v : Slot) :
    (s.setSlot k v).members = s.members := rfl
@[simp] theorem State.positions_setSlot (s : State) (k : Nat) (v : Slot) :
    (s.setSlot k v).positions = s.positions := rfl
@[simp] theorem State.copy_setSlot (s : State) (k : Nat) (v : Slot) :
    (s.setSlot k v).copy = { s.copy with slots := tableSet slotDefault k v s.copy.slots } := rfl
@[simp] theorem State.supply_setSlot (s : State) (k : Nat) (v : Slot) :
    (s.setSlot k v).supply = s.supply := rfl
@[simp] theorem State.loans_setSlot (s : State) (k : Nat) (v : Slot) :
    (s.setSlot k v).loans = s.loans := rfl
@[simp] theorem State.homeQueue_setSlot (s : State) (k : Nat) (v : Slot) :
    (s.setSlot k v).homeQueue = s.homeQueue := rfl
@[simp] theorem State.bank_setSlot (s : State) (k : Nat) (v : Slot) :
    (s.setSlot k v).bank = s.bank := rfl
@[simp] theorem State.port_setSlot (s : State) (k : Nat) (v : Slot) :
    (s.setSlot k v).port = s.port := rfl
@[simp] theorem State.faults_setSlot (s : State) (k : Nat) (v : Slot) :
    (s.setSlot k v).faults = s.faults := rfl
@[simp] theorem State.freeNext_setSlot (s : State) (k : Nat) (v : Slot) :
    (s.setSlot k v).freeNext = s.freeNext := rfl

/-! ### setLoanWay -/

@[simp] theorem State.pending_setLoanWay (s : State) (k : Nat) (v : LoanWay) :
    (s.setLoanWay k v).pending = s.pending := rfl
@[simp] theorem State.number_setLoanWay (s : State) (k : Nat) (v : LoanWay) :
    (s.setLoanWay k v).number = s.number := rfl
@[simp] theorem State.state_setLoanWay (s : State) (k : Nat) (v : LoanWay) :
    (s.setLoanWay k v).state = s.state := rfl
@[simp] theorem State.decoder_setLoanWay (s : State) (k : Nat) (v : LoanWay) :
    (s.setLoanWay k v).decoder = s.decoder := rfl
@[simp] theorem State.bus_setLoanWay (s : State) (k : Nat) (v : LoanWay) :
    (s.setLoanWay k v).bus = s.bus := rfl
@[simp] theorem State.members_setLoanWay (s : State) (k : Nat) (v : LoanWay) :
    (s.setLoanWay k v).members = s.members := rfl
@[simp] theorem State.positions_setLoanWay (s : State) (k : Nat) (v : LoanWay) :
    (s.setLoanWay k v).positions = s.positions := rfl
@[simp] theorem State.copy_setLoanWay (s : State) (k : Nat) (v : LoanWay) :
    (s.setLoanWay k v).copy = s.copy := rfl
@[simp] theorem State.supply_setLoanWay (s : State) (k : Nat) (v : LoanWay) :
    (s.setLoanWay k v).supply = s.supply := rfl
@[simp] theorem State.loans_setLoanWay (s : State) (k : Nat) (v : LoanWay) :
    (s.setLoanWay k v).loans = tableSet loanDefault k v s.loans := rfl
@[simp] theorem State.homeQueue_setLoanWay (s : State) (k : Nat) (v : LoanWay) :
    (s.setLoanWay k v).homeQueue = s.homeQueue := rfl
@[simp] theorem State.bank_setLoanWay (s : State) (k : Nat) (v : LoanWay) :
    (s.setLoanWay k v).bank = s.bank := rfl
@[simp] theorem State.port_setLoanWay (s : State) (k : Nat) (v : LoanWay) :
    (s.setLoanWay k v).port = s.port := rfl
@[simp] theorem State.faults_setLoanWay (s : State) (k : Nat) (v : LoanWay) :
    (s.setLoanWay k v).faults = s.faults := rfl
@[simp] theorem State.freeNext_setLoanWay (s : State) (k : Nat) (v : LoanWay) :
    (s.setLoanWay k v).freeNext = s.freeNext := rfl

/-! ### mapReady -/

@[simp] theorem State.pending_mapReady (s : State) (f : ReadyEntry → ReadyEntry) :
    (s.mapReady f).pending = s.pending := rfl
@[simp] theorem State.number_mapReady (s : State) (f : ReadyEntry → ReadyEntry) :
    (s.mapReady f).number = s.number := rfl
@[simp] theorem State.state_mapReady (s : State) (f : ReadyEntry → ReadyEntry) :
    (s.mapReady f).state = s.state := rfl
@[simp] theorem State.decoder_mapReady (s : State) (f : ReadyEntry → ReadyEntry) :
    (s.mapReady f).decoder = s.decoder := rfl
@[simp] theorem State.bus_mapReady (s : State) (f : ReadyEntry → ReadyEntry) :
    (s.mapReady f).bus = s.bus := rfl
@[simp] theorem State.members_mapReady (s : State) (f : ReadyEntry → ReadyEntry) :
    (s.mapReady f).members = { s.members with ready := s.members.ready.map f } := rfl
@[simp] theorem State.positions_mapReady (s : State) (f : ReadyEntry → ReadyEntry) :
    (s.mapReady f).positions = s.positions := rfl
@[simp] theorem State.copy_mapReady (s : State) (f : ReadyEntry → ReadyEntry) :
    (s.mapReady f).copy = s.copy := rfl
@[simp] theorem State.supply_mapReady (s : State) (f : ReadyEntry → ReadyEntry) :
    (s.mapReady f).supply = s.supply := rfl
@[simp] theorem State.loans_mapReady (s : State) (f : ReadyEntry → ReadyEntry) :
    (s.mapReady f).loans = s.loans := rfl
@[simp] theorem State.homeQueue_mapReady (s : State) (f : ReadyEntry → ReadyEntry) :
    (s.mapReady f).homeQueue = s.homeQueue := rfl
@[simp] theorem State.bank_mapReady (s : State) (f : ReadyEntry → ReadyEntry) :
    (s.mapReady f).bank = s.bank := rfl
@[simp] theorem State.port_mapReady (s : State) (f : ReadyEntry → ReadyEntry) :
    (s.mapReady f).port = s.port := rfl
@[simp] theorem State.faults_mapReady (s : State) (f : ReadyEntry → ReadyEntry) :
    (s.mapReady f).faults = s.faults := rfl
@[simp] theorem State.freeNext_mapReady (s : State) (f : ReadyEntry → ReadyEntry) :
    (s.mapReady f).freeNext = s.freeNext := rfl

/-! ### mapWalk -/

@[simp] theorem State.pending_mapWalk (s : State) (f : Walk → Walk) :
    (s.mapWalk f).pending = s.pending := rfl
@[simp] theorem State.number_mapWalk (s : State) (f : Walk → Walk) :
    (s.mapWalk f).number = s.number := rfl
@[simp] theorem State.state_mapWalk (s : State) (f : Walk → Walk) : (s.mapWalk f).state = s.state := rfl
@[simp] theorem State.decoder_mapWalk (s : State) (f : Walk → Walk) :
    (s.mapWalk f).decoder = s.decoder := rfl
@[simp] theorem State.bus_mapWalk (s : State) (f : Walk → Walk) : (s.mapWalk f).bus = s.bus := rfl
@[simp] theorem State.members_mapWalk (s : State) (f : Walk → Walk) :
    (s.mapWalk f).members = s.members := rfl
@[simp] theorem State.positions_mapWalk (s : State) (f : Walk → Walk) :
    (s.mapWalk f).positions = s.positions := rfl
@[simp] theorem State.copy_mapWalk (s : State) (f : Walk → Walk) :
    (s.mapWalk f).copy = { s.copy with walk := s.copy.walk.map f } := rfl
@[simp] theorem State.supply_mapWalk (s : State) (f : Walk → Walk) :
    (s.mapWalk f).supply = s.supply := rfl
@[simp] theorem State.loans_mapWalk (s : State) (f : Walk → Walk) : (s.mapWalk f).loans = s.loans := rfl
@[simp] theorem State.homeQueue_mapWalk (s : State) (f : Walk → Walk) :
    (s.mapWalk f).homeQueue = s.homeQueue := rfl
@[simp] theorem State.bank_mapWalk (s : State) (f : Walk → Walk) : (s.mapWalk f).bank = s.bank := rfl
@[simp] theorem State.port_mapWalk (s : State) (f : Walk → Walk) : (s.mapWalk f).port = s.port := rfl
@[simp] theorem State.faults_mapWalk (s : State) (f : Walk → Walk) :
    (s.mapWalk f).faults = s.faults := rfl
@[simp] theorem State.freeNext_mapWalk (s : State) (f : Walk → Walk) :
    (s.mapWalk f).freeNext = s.freeNext := rfl

/-! ### setInFlight -/

@[simp] theorem State.pending_setInFlight (s : State) (l : List Access) :
    (s.setInFlight l).pending = s.pending := rfl
@[simp] theorem State.number_setInFlight (s : State) (l : List Access) :
    (s.setInFlight l).number = s.number := rfl
@[simp] theorem State.state_setInFlight (s : State) (l : List Access) :
    (s.setInFlight l).state = s.state := rfl
@[simp] theorem State.decoder_setInFlight (s : State) (l : List Access) :
    (s.setInFlight l).decoder = s.decoder := rfl
@[simp] theorem State.bus_setInFlight (s : State) (l : List Access) :
    (s.setInFlight l).bus = s.bus := rfl
@[simp] theorem State.members_setInFlight (s : State) (l : List Access) :
    (s.setInFlight l).members = s.members := rfl
@[simp] theorem State.positions_setInFlight (s : State) (l : List Access) :
    (s.setInFlight l).positions = s.positions := rfl
@[simp] theorem State.copy_setInFlight (s : State) (l : List Access) :
    (s.setInFlight l).copy = s.copy := rfl
@[simp] theorem State.supply_setInFlight (s : State) (l : List Access) :
    (s.setInFlight l).supply = s.supply := rfl
@[simp] theorem State.loans_setInFlight (s : State) (l : List Access) :
    (s.setInFlight l).loans = s.loans := rfl
@[simp] theorem State.homeQueue_setInFlight (s : State) (l : List Access) :
    (s.setInFlight l).homeQueue = s.homeQueue := rfl
@[simp] theorem State.bank_setInFlight (s : State) (l : List Access) :
    (s.setInFlight l).bank = { s.bank with inFlight := l } := rfl
@[simp] theorem State.port_setInFlight (s : State) (l : List Access) :
    (s.setInFlight l).port = s.port := rfl
@[simp] theorem State.faults_setInFlight (s : State) (l : List Access) :
    (s.setInFlight l).faults = s.faults := rfl
@[simp] theorem State.freeNext_setInFlight (s : State) (l : List Access) :
    (s.setInFlight l).freeNext = s.freeNext := rfl

/-! ### drive -/

@[simp] theorem State.pending_drive (s : State) (pub : Publication) (r : Reply) (x : Option RecordTag) :
    (s.drive pub r x).pending = s.pending := rfl
@[simp] theorem State.number_drive (s : State) (pub : Publication) (r : Reply) (x : Option RecordTag) :
    (s.drive pub r x).number = s.number := rfl
@[simp] theorem State.state_drive (s : State) (pub : Publication) (r : Reply) (x : Option RecordTag) :
    (s.drive pub r x).state = s.state := rfl
@[simp] theorem State.decoder_drive (s : State) (pub : Publication) (r : Reply) (x : Option RecordTag) :
    (s.drive pub r x).decoder = s.decoder := rfl
@[simp] theorem State.bus_drive (s : State) (pub : Publication) (r : Reply) (x : Option RecordTag) :
    (s.drive pub r x).bus = { s.bus with phase := .tenure pub none (replyCode r) x } := rfl
@[simp] theorem State.members_drive (s : State) (pub : Publication) (r : Reply) (x : Option RecordTag) :
    (s.drive pub r x).members = s.members := rfl
@[simp] theorem State.positions_drive (s : State) (pub : Publication) (r : Reply) (x : Option RecordTag) :
    (s.drive pub r x).positions = s.positions := rfl
@[simp] theorem State.copy_drive (s : State) (pub : Publication) (r : Reply) (x : Option RecordTag) :
    (s.drive pub r x).copy = s.copy := rfl
@[simp] theorem State.supply_drive (s : State) (pub : Publication) (r : Reply) (x : Option RecordTag) :
    (s.drive pub r x).supply = s.supply := rfl
@[simp] theorem State.loans_drive (s : State) (pub : Publication) (r : Reply) (x : Option RecordTag) :
    (s.drive pub r x).loans = s.loans := rfl
@[simp] theorem State.homeQueue_drive (s : State) (pub : Publication) (r : Reply) (x : Option RecordTag) :
    (s.drive pub r x).homeQueue = s.homeQueue := rfl
@[simp] theorem State.bank_drive (s : State) (pub : Publication) (r : Reply) (x : Option RecordTag) :
    (s.drive pub r x).bank = s.bank := rfl
@[simp] theorem State.port_drive (s : State) (pub : Publication) (r : Reply) (x : Option RecordTag) :
    (s.drive pub r x).port = s.port := rfl
@[simp] theorem State.faults_drive (s : State) (pub : Publication) (r : Reply) (x : Option RecordTag) :
    (s.drive pub r x).faults = s.faults := rfl
@[simp] theorem State.freeNext_drive (s : State) (pub : Publication) (r : Reply) (x : Option RecordTag) :
    (s.drive pub r x).freeNext = s.freeNext := rfl

/-! ### publish -/

@[simp] theorem State.pending_publish (s : State) (src : Source) (pub : Publication) :
    (s.publish src pub).pending = s.pending := rfl
@[simp] theorem State.number_publish (s : State) (src : Source) (pub : Publication) :
    (s.publish src pub).number = s.number := rfl
@[simp] theorem State.state_publish (s : State) (src : Source) (pub : Publication) :
    (s.publish src pub).state = s.state := rfl
@[simp] theorem State.decoder_publish (s : State) (src : Source) (pub : Publication) :
    (s.publish src pub).decoder = s.decoder := rfl
@[simp] theorem State.bus_publish (s : State) (src : Source) (pub : Publication) :
    (s.publish src pub).bus = { s.bus with contention := none, reference := some s.number, phase := .tenure pub (some src) s.ownReply none } := rfl
@[simp] theorem State.members_publish (s : State) (src : Source) (pub : Publication) :
    (s.publish src pub).members = s.members := rfl
@[simp] theorem State.positions_publish (s : State) (src : Source) (pub : Publication) :
    (s.publish src pub).positions = s.positions := rfl
@[simp] theorem State.copy_publish (s : State) (src : Source) (pub : Publication) :
    (s.publish src pub).copy = s.copy := rfl
@[simp] theorem State.supply_publish (s : State) (src : Source) (pub : Publication) :
    (s.publish src pub).supply = s.supply := rfl
@[simp] theorem State.loans_publish (s : State) (src : Source) (pub : Publication) :
    (s.publish src pub).loans = s.loans := rfl
@[simp] theorem State.homeQueue_publish (s : State) (src : Source) (pub : Publication) :
    (s.publish src pub).homeQueue = s.homeQueue := rfl
@[simp] theorem State.bank_publish (s : State) (src : Source) (pub : Publication) :
    (s.publish src pub).bank = s.bank := rfl
@[simp] theorem State.port_publish (s : State) (src : Source) (pub : Publication) :
    (s.publish src pub).port = s.port := rfl
@[simp] theorem State.faults_publish (s : State) (src : Source) (pub : Publication) :
    (s.publish src pub).faults = s.faults := rfl
@[simp] theorem State.freeNext_publish (s : State) (src : Source) (pub : Publication) :
    (s.publish src pub).freeNext = s.freeNext := rfl

/-! ### becomeMember -/

@[simp] theorem State.pending_becomeMember (s : State) : (s.becomeMember).pending = s.pending := rfl
@[simp] theorem State.number_becomeMember (s : State) : (s.becomeMember).number = s.number := rfl
@[simp] theorem State.state_becomeMember (s : State) :
    (s.becomeMember).state = .member := rfl
@[simp] theorem State.decoder_becomeMember (s : State) : (s.becomeMember).decoder = s.decoder := rfl
@[simp] theorem State.bus_becomeMember (s : State) : (s.becomeMember).bus = s.bus := rfl
@[simp] theorem State.members_becomeMember (s : State) :
    (s.becomeMember).members = { s.members with awaited := 0, timer := false } := rfl
@[simp] theorem State.positions_becomeMember (s : State) :
    (s.becomeMember).positions = s.positions := rfl
@[simp] theorem State.copy_becomeMember (s : State) : (s.becomeMember).copy = s.copy := rfl
@[simp] theorem State.supply_becomeMember (s : State) : (s.becomeMember).supply = s.supply := rfl
@[simp] theorem State.loans_becomeMember (s : State) : (s.becomeMember).loans = s.loans := rfl
@[simp] theorem State.homeQueue_becomeMember (s : State) :
    (s.becomeMember).homeQueue = s.homeQueue := rfl
@[simp] theorem State.bank_becomeMember (s : State) : (s.becomeMember).bank = s.bank := rfl
@[simp] theorem State.port_becomeMember (s : State) : (s.becomeMember).port = s.port := rfl
@[simp] theorem State.faults_becomeMember (s : State) : (s.becomeMember).faults = s.faults := rfl
@[simp] theorem State.freeNext_becomeMember (s : State) : (s.becomeMember).freeNext = s.freeNext := rfl

/-! ### dropForJoiner -/

@[simp] theorem State.pending_dropForJoiner (s : State) (j : Station) :
    (s.dropForJoiner j).pending = s.pending := rfl
@[simp] theorem State.number_dropForJoiner (s : State) (j : Station) :
    (s.dropForJoiner j).number = s.number := rfl
@[simp] theorem State.state_dropForJoiner (s : State) (j : Station) :
    (s.dropForJoiner j).state = s.state := rfl
@[simp] theorem State.decoder_dropForJoiner (s : State) (j : Station) :
    (s.dropForJoiner j).decoder = s.decoder := rfl
@[simp] theorem State.bus_dropForJoiner (s : State) (j : Station) :
    (s.dropForJoiner j).bus = s.bus := rfl
@[simp] theorem State.members_dropForJoiner (s : State) (j : Station) :
    (s.dropForJoiner j).members = s.members := rfl
@[simp] theorem State.positions_dropForJoiner (s : State) (j : Station) :
    (s.dropForJoiner j).positions = s.positions := rfl
@[simp] theorem State.supply_dropForJoiner (s : State) (j : Station) :
    (s.dropForJoiner j).supply = s.supply := rfl
@[simp] theorem State.loans_dropForJoiner (s : State) (j : Station) :
    (s.dropForJoiner j).loans = s.loans := rfl
@[simp] theorem State.homeQueue_dropForJoiner (s : State) (j : Station) :
    (s.dropForJoiner j).homeQueue = s.homeQueue := rfl
@[simp] theorem State.bank_dropForJoiner (s : State) (j : Station) :
    (s.dropForJoiner j).bank = s.bank := rfl
@[simp] theorem State.port_dropForJoiner (s : State) (j : Station) :
    (s.dropForJoiner j).port = s.port := rfl
@[simp] theorem State.faults_dropForJoiner (s : State) (j : Station) :
    (s.dropForJoiner j).faults = s.faults := rfl
@[simp] theorem State.freeNext_dropForJoiner (s : State) (j : Station) :
    (s.dropForJoiner j).freeNext = s.freeNext := rfl

/-! ### departSlots -/

@[simp] theorem State.pending_departSlots (s : State) (d : StationSet) :
    (s.departSlots d).pending = s.pending := rfl
@[simp] theorem State.number_departSlots (s : State) (d : StationSet) :
    (s.departSlots d).number = s.number := rfl
@[simp] theorem State.state_departSlots (s : State) (d : StationSet) :
    (s.departSlots d).state = s.state := rfl
@[simp] theorem State.decoder_departSlots (s : State) (d : StationSet) :
    (s.departSlots d).decoder = s.decoder := rfl
@[simp] theorem State.bus_departSlots (s : State) (d : StationSet) :
    (s.departSlots d).bus = s.bus := rfl
@[simp] theorem State.members_departSlots (s : State) (d : StationSet) :
    (s.departSlots d).members = s.members := rfl
@[simp] theorem State.positions_departSlots (s : State) (d : StationSet) :
    (s.departSlots d).positions = s.positions := rfl
@[simp] theorem State.supply_departSlots (s : State) (d : StationSet) :
    (s.departSlots d).supply = s.supply := rfl
@[simp] theorem State.loans_departSlots (s : State) (d : StationSet) :
    (s.departSlots d).loans = s.loans := rfl
@[simp] theorem State.homeQueue_departSlots (s : State) (d : StationSet) :
    (s.departSlots d).homeQueue = s.homeQueue := rfl
@[simp] theorem State.bank_departSlots (s : State) (d : StationSet) :
    (s.departSlots d).bank = s.bank := rfl
@[simp] theorem State.port_departSlots (s : State) (d : StationSet) :
    (s.departSlots d).port = s.port := rfl
@[simp] theorem State.faults_departSlots (s : State) (d : StationSet) :
    (s.departSlots d).faults = s.faults := rfl
@[simp] theorem State.freeNext_departSlots (s : State) (d : StationSet) :
    (s.departSlots d).freeNext = s.freeNext := rfl

/-! ### departLoans -/

@[simp] theorem State.pending_departLoans (s : State) (d : StationSet) :
    (s.departLoans d).pending = s.pending := rfl
@[simp] theorem State.number_departLoans (s : State) (d : StationSet) :
    (s.departLoans d).number = s.number := rfl
@[simp] theorem State.state_departLoans (s : State) (d : StationSet) :
    (s.departLoans d).state = s.state := rfl
@[simp] theorem State.decoder_departLoans (s : State) (d : StationSet) :
    (s.departLoans d).decoder = s.decoder := rfl
@[simp] theorem State.bus_departLoans (s : State) (d : StationSet) :
    (s.departLoans d).bus = s.bus := rfl
@[simp] theorem State.members_departLoans (s : State) (d : StationSet) :
    (s.departLoans d).members = s.members := rfl
@[simp] theorem State.positions_departLoans (s : State) (d : StationSet) :
    (s.departLoans d).positions = s.positions := rfl
@[simp] theorem State.copy_departLoans (s : State) (d : StationSet) :
    (s.departLoans d).copy = s.copy := rfl
@[simp] theorem State.supply_departLoans (s : State) (d : StationSet) :
    (s.departLoans d).supply = s.supply := rfl
@[simp] theorem State.homeQueue_departLoans (s : State) (d : StationSet) :
    (s.departLoans d).homeQueue = s.homeQueue := rfl
@[simp] theorem State.bank_departLoans (s : State) (d : StationSet) :
    (s.departLoans d).bank = s.bank := rfl
@[simp] theorem State.port_departLoans (s : State) (d : StationSet) :
    (s.departLoans d).port = s.port := rfl
@[simp] theorem State.faults_departLoans (s : State) (d : StationSet) :
    (s.departLoans d).faults = s.faults := rfl
@[simp] theorem State.freeNext_departLoans (s : State) (d : StationSet) :
    (s.departLoans d).freeNext = s.freeNext := rfl

end Sys2Proof.Machine
end

