-- ==== Sys2Proof/Laws/Rim.lean ====
section
/-! SUPPORT. The rim of the state: everything but the tables, queues, offers and bank. The operations
that serve a request, act on a record or answer a tenure leave the rim as it is: one lemma for each. -/
namespace Sys2Proof.Machine

/-- The parts of State that requests, records and tenures do not change by themselves. -/
structure Rim where
  pending : List Instr
  number : Station
  state : StationState
  decoder : Decoder
  reference : Option Station
  contention : Option Class
  phase : BusPhase
  present : StationSet
  awaited : StationSet
  timer : Bool
  changed : Bool
  faults : List Notice
  deriving DecidableEq, Repr

/-- The rim of a state. -/
def State.rim (s : State) : Rim :=
  { pending := s.pending, number := s.number, state := s.state, decoder := s.decoder,
    reference := s.bus.reference, contention := s.bus.contention, phase := s.bus.phase,
    present := s.members.present, awaited := s.members.awaited, timer := s.members.timer,
    changed := s.members.changed, faults := s.faults }

theorem rim_foldl {α : Type} (f : State → α → State) (h : ∀ s a, (f s a).rim = s.rim) (l : List α) :
    ∀ s : State, (l.foldl f s).rim = s.rim := by
  induction l with
  | nil => intro s; rfl
  | cons a l ih => intro s; exact (ih (f s a)).trans (h s a)

@[simp] theorem State.rim_setSlot (s : State) (k : Nat) (v : Slot) : (s.setSlot k v).rim = s.rim := rfl

@[simp] theorem State.rim_refreshSlot (s : State) (k : Nat) : (s.refreshSlot k).rim = s.rim := by
  unfold State.refreshSlot
  apply rim_foldl
  intro s a
  simp only []
  (repeat' split) <;> first | rfl | simp

@[simp] theorem State.rim_wayLeft (s : State) (k : Nat) : (s.wayLeft k).rim = s.rim := rfl

@[simp] theorem State.rim_setLoanWay (s : State) (k : Nat) (v : LoanWay) :
    (s.setLoanWay k v).rim = s.rim := rfl

@[simp] theorem State.rim_updateLoan (s : State) (index : Nat) (f : LoanEntry → LoanEntry) :
    (s.updateLoan index f).rim = s.rim := by
  unfold State.updateLoan
  (repeat' split) <;> simp

@[simp] theorem State.rim_refreshLoanWay (s : State) (k : Nat) : (s.refreshLoanWay k).rim = s.rim := by
  unfold State.refreshLoanWay
  apply rim_foldl
  intro s a
  simp only []
  (repeat' split) <;> first | rfl | simp

@[simp] theorem State.rim_refreshLoan (s : State) (index : Nat) :
    (s.refreshLoan index).rim = s.rim := by
  unfold State.refreshLoan
  split <;> simp

@[simp] theorem State.rim_setEntry (s : State) (t : Tag) (e : PortEntry) :
    (s.setEntry t e).rim = s.rim := rfl

@[simp] theorem State.rim_setProgress (s : State) (t : Tag) (p : Progress) :
    (s.setProgress t p).rim = s.rim := by
  unfold State.setProgress
  split <;> rfl

@[simp] theorem State.rim_complete (s : State) (t : Tag) (st : Status) (ws : List Word) :
    (s.complete t st ws).rim = s.rim := by
  unfold State.complete
  split <;> rfl

@[simp] theorem State.rim_completeAll (s : State) (ts : List Tag) (st : Status) :
    (s.completeAll ts st).rim = s.rim := by
  unfold State.completeAll
  apply rim_foldl
  intro s a
  simp

@[simp] theorem State.rim_streamFlushFrom (ts : List Tag) :
    ∀ s : State, (streamFlushFrom ts s).rim = s.rim := by
  induction ts with
  | nil => intro s; rfl
  | cons t ts ih =>
    intro s
    unfold streamFlushFrom
    split
    · rw [ih]; simp
    · rfl
    · exact ih s

@[simp] theorem State.rim_streamFlush (s : State) : s.streamFlush.rim = s.rim := by
  unfold State.streamFlush
  simp

@[simp] theorem State.rim_decided (s : State) (t : Tag) (st : Status) (ws : List Word) :
    (s.decided t st ws).rim = s.rim := by
  unfold State.decided
  simp

@[simp] theorem State.rim_addOffer (s : State) (o : Offer) : (s.addOffer o).rim = s.rim := rfl

@[simp] theorem State.rim_withdraw (s : State) (o : Offer) : (s.withdraw o).rim = s.rim := rfl

@[simp] theorem State.rim_withdrawWhere (s : State) (f : Offer → Bool) :
    (s.withdrawWhere f).rim = s.rim := rfl

@[simp] theorem State.rim_settleOffers (s : State) : s.settleOffers.rim = s.rim := rfl

@[simp] theorem State.rim_haltPort (s : State) : s.haltPort.rim = s.rim := by
  unfold State.haltPort
  apply rim_foldl
  intro s a
  simp

@[simp] theorem State.rim_setPosition (s : State) (p : RecordTag) (v : Position) :
    (s.setPosition p v).rim = s.rim := rfl

@[simp] theorem State.rim_makeRecord (s : State) (p : RecordTag) (kind : Kind) (l : LineAddr)
    (slot : Option Nat) (tags : List Tag) (payload : Payload) :
    (s.makeRecord p kind l slot tags payload).rim = s.rim := rfl

@[simp] theorem State.rim_updateRecord (s : State) (p : RecordTag) (f : Record → Record) :
    (s.updateRecord p f).rim = s.rim := by
  unfold State.updateRecord
  split <;> rfl

@[simp] theorem State.rim_freeRecord (s : State) (p : RecordTag) : (s.freeRecord p).rim = s.rim := rfl

@[simp] theorem State.rim_setSupply (s : State) (e : Fin 4) (v : SupplyEntry) :
    (s.setSupply e v).rim = s.rim := rfl

@[simp] theorem State.rim_releaseSupply (s : State) : s.releaseSupply.rim = s.rim := by
  unfold State.releaseSupply
  split <;> rfl

@[simp] theorem State.rim_readySupply (s : State) (e : Fin 4) (d : Supply) :
    (s.readySupply e d).rim = s.rim := rfl

@[simp] theorem State.rim_freeSupplyEntry (s : State) (e : Fin 4) :
    (s.freeSupplyEntry e).rim = s.rim := rfl

@[simp] theorem State.rim_setHome (s : State) (e : Fin 8) (v : HomeEntry) :
    (s.setHome e v).rim = s.rim := rfl

@[simp] theorem State.rim_takeHome (s : State) (e : Fin 8) (v : HomeEntry) :
    (s.takeHome e v).rim = s.rim := rfl

@[simp] theorem State.rim_freeIdle (s : State) (index : Nat) : (s.freeIdle index).rim = s.rim := by
  unfold State.freeIdle
  (repeat' split) <;> simp

@[simp] theorem State.rim_freeIdleLine (s : State) (l : LineAddr) :
    (s.freeIdleLine l).rim = s.rim := by
  unfold State.freeIdleLine
  split <;> simp

@[simp] theorem State.rim_freeHomeEntry (s : State) (e : Fin 8) : (s.freeHomeEntry e).rim = s.rim := by
  unfold State.freeHomeEntry
  simp only []
  (repeat' (first | split | (refine (rim_foldl _ (fun s a => ?_) _ _).trans ?_))) <;> first | rfl | (simp; done) | (simp; rfl)

@[simp] theorem State.rim_completeHome (s : State) (t : Tag) (st : Status) (ws : List Word) :
    (s.completeHome t st ws).rim = s.rim := by
  unfold State.completeHome
  split <;> simp

@[simp] theorem State.rim_issue (s : State) (d : Due) : (s.issue d).rim = s.rim := by
  unfold State.issue
  (repeat' split) <;> first | rfl | simp

@[simp] theorem State.rim_issueHeld (s : State) : s.issueHeld.rim = s.rim := by
  unfold State.issueHeld
  apply rim_foldl
  intro s a
  simp

@[simp] theorem State.rim_dropAccesses (s : State) : s.dropAccesses.rim = s.rim := by
  unfold State.dropAccesses
  rw [State.rim_issueHeld]
  rfl

@[simp] theorem State.rim_vacate (s : State) : s.vacate.rim = s.rim := rfl

@[simp] theorem State.rim_fillWay (s : State) (t : Tag) (k : Nat) (p : RecordTag) :
    (s.fillWay t k p).rim = s.rim := by
  unfold State.fillWay
  (repeat' split) <;> simp

@[simp] theorem State.rim_settleSuccessor (s : State) (k : Nat) :
    (s.settleSuccessor k).rim = s.rim := by
  unfold State.settleSuccessor
  (repeat' split) <;> simp

@[simp] theorem State.rim_mapReady (s : State) (f : ReadyEntry → ReadyEntry) :
    (s.mapReady f).rim = s.rim := rfl

@[simp] theorem State.rim_mapWalk (s : State) (f : Walk → Walk) : (s.mapWalk f).rim = s.rim := rfl

@[simp] theorem State.rim_evictionClosed (s : State) (p : RecordTag) (k : Nat) (contended : Bool) :
    (s.evictionClosed p k contended).rim = s.rim := by
  unfold State.evictionClosed
  simp

@[simp] theorem State.rim_recallClosed (s : State) (l : LineAddr) (lost : Bool) :
    (s.recallClosed l lost).rim = s.rim := by
  unfold State.recallClosed
  split <;> simp

@[simp] theorem State.rim_recallContended (s : State) (l : LineAddr) :
    (s.recallContended l).rim = s.rim := by
  unfold State.recallContended
  split <;> simp

@[simp] theorem State.rim_failSlot (s : State) (r : Record) (st : Status) :
    (s.failSlot r st).rim = s.rim := by
  unfold State.failSlot
  split <;> rfl

@[simp] theorem State.rim_failPosition (s : State) (p : RecordTag) (r : Record) (fence : Bool) :
    (s.failPosition p r fence).rim = s.rim := by
  unfold State.failPosition
  split <;> rfl

@[simp] theorem State.rim_failParties (s : State) (p : RecordTag) (r : Record) (st : Status) :
    (s.failParties p r st).rim = s.rim := by
  unfold State.failParties
  (repeat' split) <;> simp

@[simp] theorem State.rim_failRecord (s : State) (p : RecordTag) (st : Status) (fence : Bool) :
    (s.failRecord p st fence).rim = s.rim := by
  unfold State.failRecord
  split <;> simp

@[simp] theorem State.rim_closeEviction (s : State) (p : RecordTag) :
    (s.closeEviction p).rim = s.rim := by
  unfold State.closeEviction
  (repeat' split) <;> simp

@[simp] theorem State.rim_countRetry (s : State) (p : RecordTag) : (s.countRetry p).rim = s.rim := by
  unfold State.countRetry
  (repeat' split) <;> simp

@[simp] theorem State.rim_actTag (s : State) (k : Nat) (st : Status) (t : Tag) :
    (s.actTag k st t).rim = s.rim := by
  unfold State.actTag
  split <;> simp

@[simp] theorem State.rim_actTags (s : State) (k : Nat) (st : Status) (ts : List Tag) :
    (s.actTags k st ts).rim = s.rim := by
  unfold State.actTags
  apply rim_foldl
  intro s a
  simp

@[simp] theorem State.rim_evict (s : State) (k : Nat) (p : RecordTag) (kind : Kind) (tags : List Tag) :
    (s.evict k p kind tags).rim = s.rim := rfl

@[simp] theorem State.rim_pruneLists (s : State) : s.pruneLists.rim = s.rim := rfl

@[simp] theorem State.rim_readyOffers (s : State) : s.readyOffers.rim = s.rim := by
  unfold State.readyOffers
  apply rim_foldl
  intro s a
  simp

@[simp] theorem State.rim_walkCheck (s : State) : s.walkCheck.rim = s.rim := by
  unfold State.walkCheck
  (repeat' split) <;> first | rfl | (simp; rfl)

@[simp] theorem State.rim_drainReads (s : State) : s.drainReads.rim = s.rim := by
  unfold State.drainReads
  split <;> rfl

@[simp] theorem State.rim_drainSweep (s : State) : s.drainSweep.rim = s.rim := by
  unfold State.drainSweep
  split <;> rfl

@[simp] theorem State.rim_settle (s : State) : s.settle.rim = s.rim := by
  unfold State.settle
  simp

@[simp] theorem State.rim_releaseReserve (s : State) (t : Tag) : (s.releaseReserve t).rim = s.rim := by
  unfold State.releaseReserve
  (repeat' split) <;> simp

@[simp] theorem State.rim_merge (s : State) (t : Tag) (p : RecordTag) : (s.merge t p).rim = s.rim := by
  unfold State.merge
  simp

@[simp] theorem State.rim_evictFor (s : State) (t : Tag) (k : Nat) (p q : RecordTag) :
    (s.evictFor t k p q).rim = s.rim := by
  unfold State.evictFor
  simp

@[simp] theorem State.rim_missHeld (s : State) (t : Tag) (k : Nat) : (s.missHeld t k).rim = s.rim := by
  unfold State.missHeld
  (repeat' split) <;> simp

@[simp] theorem State.rim_miss (s : State) (t : Tag) (l : LineAddr) : (s.miss t l).rim = s.rim := by
  unfold State.miss
  (repeat' split) <;> simp

@[simp] theorem State.rim_readHit (s : State) (t : Tag) (k : Nat) (a : Word) (n : Nat) :
    (s.readHit t k a n).rim = s.rim := by
  unfold State.readHit
  simp

@[simp] theorem State.rim_mergeLineRecord (s : State) (t : Tag) (l : LineAddr) (k : Nat) :
    (s.mergeLineRecord t l k).rim = s.rim := by
  unfold State.mergeLineRecord
  split <;> simp

@[simp] theorem State.rim_copyRead (s : State) (t : Tag) (l : LineAddr) (a : Word) (n : Nat) :
    (s.copyRead t l a n).rim = s.rim := by
  unfold State.copyRead
  (repeat' split) <;> simp

@[simp] theorem State.rim_writeHit (s : State) (t : Tag) (k : Nat) (r : Request) :
    (s.writeHit t k r).rim = s.rim := by
  unfold State.writeHit
  simp

@[simp] theorem State.rim_copyWrite (s : State) (t : Tag) (l : LineAddr) (r : Request) :
    (s.copyWrite t l r).rim = s.rim := by
  unfold State.copyWrite State.withPosition
  (repeat' split) <;> simp

@[simp] theorem State.rim_slotless (s : State) (t : Tag) (l : LineAddr) (kind : Kind)
    (payload : Payload) :
    (s.slotless t l kind payload).rim = s.rim := by
  unfold State.slotless State.withPosition
  (repeat' split) <;> simp

@[simp] theorem State.rim_operateCopy (s : State) (t : Tag) (k : Nat) (op : PoolOp) (e : WindowEntry) :
    (s.operateCopy t k op e).rim = s.rim := by
  unfold State.operateCopy
  simp

@[simp] theorem State.rim_copyOperation (s : State) (t : Tag) (l : LineAddr) (op : PoolOp)
    (e : WindowEntry) :
    (s.copyOperation t l op e).rim = s.rim := by
  unfold State.copyOperation
  (repeat' split) <;> simp

@[simp] theorem State.rim_evictLine (s : State) (t : Tag) (k : Nat) (kind : Kind) :
    (s.evictLine t k kind).rim = s.rim := by
  unfold State.evictLine State.withPosition
  (repeat' split) <;> simp

@[simp] theorem State.rim_copyMaintain (s : State) (t : Tag) (l : LineAddr) (discard : Bool) :
    (s.copyMaintain t l discard).rim = s.rim := by
  unfold State.copyMaintain
  simp only []
  (repeat' (first | split | (refine (rim_foldl _ (fun s a => ?_) _ _).trans ?_))) <;> first | rfl | (simp; done) | (simp; rfl)

@[simp] theorem State.rim_actBank (s : State) (t : Tag) (r : Request) (res : Resolved) :
    (s.actBank t r res).rim = s.rim := by
  unfold State.actBank
  split <;> simp

@[simp] theorem State.rim_actHome (s : State) (t : Tag) (r : Request) (res : Resolved) :
    (s.actHome t r res).rim = s.rim := by
  unfold State.actHome
  (repeat' split) <;> simp

@[simp] theorem State.rim_makeRecall (s : State) (p : RecordTag) (kind : Kind) (l : LineAddr)
    (index : Nat) (payload : Payload) :
    (s.makeRecall p kind l index payload).rim = s.rim := by
  unfold State.makeRecall
  simp

@[simp] theorem State.rim_awaitRecall (s : State) (t : Tag) (e : Fin 8) (kind : Kind) (res : Resolved) :
    (s.awaitRecall t e kind res).rim = s.rim := by
  unfold State.awaitRecall
  simp only []
  (repeat' (first | split | (refine (rim_foldl _ (fun s a => ?_) _ _).trans ?_))) <;> first | rfl | (simp; done) | (simp; rfl)

@[simp] theorem State.rim_handleHome (s : State) (t : Tag) (r : Request) (res : Resolved) :
    (s.handleHome t r res).rim = s.rim := by
  unfold State.handleHome
  simp only []
  (repeat' (first | split | (refine (rim_foldl _ (fun s a => ?_) _ _).trans ?_))) <;> first | rfl | (simp; done) | (simp; rfl)

@[simp] theorem State.rim_handlePrivate (s : State) (t : Tag) (r : Request) (res : Resolved) :
    (s.handlePrivate t r res).rim = s.rim := by
  unfold State.handlePrivate
  split <;> simp

@[simp] theorem State.rim_route (s : State) (t : Tag) (r : Request) (res : Resolved) :
    (s.route t r res).rim = s.rim := by
  unfold State.route
  simp only []
  (repeat' (first | split | (refine (rim_foldl _ (fun s a => ?_) _ _).trans ?_))) <;> first | rfl | (simp; done) | (simp; rfl)

@[simp] theorem State.rim_judge (s : State) (t : Tag) (r : Request) (res : Resolved) :
    (s.judge t r res).rim = s.rim := by
  unfold State.judge
  (repeat' split) <;> simp

@[simp] theorem State.rim_handle (s : State) (t : Tag) : (s.handle t).rim = s.rim := by
  unfold State.handle
  (repeat' split) <;> simp

@[simp] theorem State.rim_handleQueued (s : State) (t : Tag) : (s.handleQueued t).rim = s.rim := by
  unfold State.handleQueued
  (repeat' split) <;> simp

@[simp] theorem State.rim_takeUp (s : State) (ls : List LineAddr) (t : Tag) :
    (s.takeUp ls t).rim = s.rim := by
  unfold State.takeUp
  (repeat' split) <;> simp

@[simp] theorem State.rim_takeUpLines (s : State) (ls : List LineAddr) : (s.takeUpLines ls).rim = s.rim :=
  rim_foldl _ (fun s t => s.rim_takeUp ls t) _ _

@[simp] theorem State.rim_tellParties (s u : State) : (s.tellParties u).rim = u.rim := by
  unfold State.tellParties
  split
  · show ((u.drainReads.pruneLists.takeUpLines (s.closedLines u)).pruneLists.walkCheck).rim = u.rim
    rw [State.rim_walkCheck, State.rim_pruneLists, State.rim_takeUpLines, State.rim_pruneLists,
      State.rim_drainReads]
  · rfl

@[simp] theorem State.rim_closing (s : State) (f : State → State) : (s.closing f).rim = (f s).rim :=
  s.rim_tellParties (f s)

@[simp] theorem State.rim_takeUpWaiting (s : State) : s.takeUpWaiting.rim = s.rim := by
  unfold State.takeUpWaiting
  apply rim_foldl
  intro s t
  split <;> simp

@[simp] theorem State.rim_turnWalk (s : State) (p : RecordTag) : (s.turnWalk p).rim = s.rim := by
  unfold State.turnWalk
  (repeat' split) <;> simp

@[simp] theorem State.rim_beginWalk (s : State) (t : Tag) : (s.beginWalk t).rim = s.rim := by
  unfold State.beginWalk
  rw [State.rim_setProgress]
  rfl

@[simp] theorem State.rim_grantRequest (s : State) (t : Tag) (p : RecordTag) :
    (s.grantRequest t p).rim = s.rim := by
  unfold State.grantRequest
  (repeat' split) <;> simp

@[simp] theorem State.rim_grantDrain (s : State) (p : RecordTag) : (s.grantDrain p).rim = s.rim := by
  unfold State.grantDrain
  (repeat' split) <;> simp

@[simp] theorem State.rim_grantOne (s : State) : s.grantOne.rim = s.rim := by
  unfold State.grantOne
  (repeat' split) <;> simp

@[simp] theorem State.rim_grantAll (s : State) : s.grantAll.rim = s.rim := by
  unfold State.grantAll
  exact rim_foldl _ (fun s _ => s.rim_grantOne) _ _

@[simp] theorem State.rim_grantStep (s : State) : s.grantStep.rim = s.rim := by
  show s.grantAll.pruneLists.walkCheck.rim = s.rim
  simp

@[simp] theorem State.rim_startWalk (s : State) (t : Tag) : (s.startWalk t).rim = s.rim := by
  unfold State.startWalk
  rw [State.rim_grantStep, State.rim_beginWalk]

@[simp] theorem State.rim_handleFlushAll (s : State) (t : Tag) : (s.handleFlushAll t).rim = s.rim := by
  unfold State.handleFlushAll
  split <;> simp

@[simp] theorem State.rim_dispatchPool (s : State) (t : Tag) (r : Request) (a : Word) :
    (s.dispatchPool t r a).rim = s.rim := by
  unfold State.dispatchPool
  (repeat' split) <;> simp

@[simp] theorem State.rim_dispatchFlushAll (s : State) (t : Tag) :
    (s.dispatchFlushAll t).rim = s.rim := by
  unfold State.dispatchFlushAll
  (repeat' split) <;> simp

@[simp] theorem State.rim_opened (s : State) (t : Tag) (r : Request) : (s.opened t r).rim = s.rim := rfl

@[simp] theorem State.rim_resume (s : State) (t : Tag) : (s.resume t).rim = s.rim := by
  unfold State.resume
  (repeat' split) <;> simp

@[simp] theorem State.rim_reserveSupply (s : State) (pub : Publication) :
    (s.reserveSupply pub).rim = s.rim := by
  unfold State.reserveSupply
  split <;> rfl

@[simp] theorem State.rim_reserveHome (s : State) (pub : Publication) :
    (s.reserveHome pub).rim = s.rim := by
  unfold State.reserveHome
  simp only []
  (repeat' (first | split | (refine (rim_foldl _ (fun s a => ?_) _ _).trans ?_))) <;> first | rfl | (simp; done) | (simp; rfl)

@[simp] theorem State.rim_departSlots (s : State) (d : StationSet) :
    (s.departSlots d).rim = s.rim := rfl

@[simp] theorem State.rim_departPosition (s : State) (d : StationSet) (p : RecordTag) :
    (s.departPosition d p).rim = s.rim := by
  unfold State.departPosition
  (repeat' split) <;> simp

@[simp] theorem State.rim_departLoans (s : State) (d : StationSet) :
    (s.departLoans d).rim = s.rim := rfl

@[simp] theorem State.rim_startOperation (s : State) (h : Fin 8) :
    (s.startOperation h).rim = s.rim := by
  unfold State.startOperation
  (repeat' split) <;> simp

@[simp] theorem State.rim_departHome (s : State) (d : StationSet) (h : Fin 8) :
    (s.departHome d h).rim = s.rim := by
  unfold State.departHome
  (repeat' split) <;> simp

@[simp] theorem State.rim_supplySlot (s : State) (pub : Publication) (v : Slot) :
    (s.supplySlot pub v).rim = s.rim := by
  unfold State.supplySlot
  split <;> rfl

@[simp] theorem State.rim_convertClaim (s : State) (k : Nat) (l : LineAddr) :
    (s.convertClaim k l).rim = s.rim := by
  unfold State.convertClaim
  simp only []
  (repeat' (first | split | (refine (rim_foldl _ (fun s a => ?_) _ _).trans ?_))) <;> first | rfl | (simp; done) | (simp; rfl)

@[simp] theorem State.rim_snoopSlot (s : State) (pub : Publication) (k : Nat) :
    (s.snoopSlot pub k).rim = s.rim := by
  unfold State.snoopSlot
  simp only []
  (repeat' (first | split | (refine (rim_foldl _ (fun s a => ?_) _ _).trans ?_))) <;> first | rfl | (simp; done) | (simp; rfl)

@[simp] theorem State.rim_snoopTally (s : State) (pub : Publication) (effect : Bool) :
    (s.snoopTally pub effect).rim = s.rim := by
  unfold State.snoopTally
  (repeat' split) <;> simp

@[simp] theorem State.rim_releaseHome (s : State) : s.releaseHome.rim = s.rim := by
  unfold State.releaseHome
  simp only []
  (repeat' (first | split | (refine (rim_foldl _ (fun s a => ?_) _ _).trans ?_))) <;> first | rfl | (simp; done) | (simp; rfl)

@[simp] theorem State.rim_allocateLoan (s : State) (k : Kind) (index : Nat) (l : LineAddr) :
    (s.allocateLoan k index l).rim = s.rim := by
  unfold State.allocateLoan
  (repeat' split) <;> simp

@[simp] theorem State.rim_loanTally (s : State) (pub : Publication) (rd : Reading) (index : Nat) :
    (s.loanTally pub rd index).rim = s.rim := by
  unfold State.loanTally
  simp

@[simp] theorem State.rim_supplyMemory (s : State) (pub : Publication) (index : Nat)
    (first : BitVec 4) (count : BitVec 5) :
    (s.supplyMemory pub index first count).rim = s.rim := by
  unfold State.supplyMemory
  split <;> simp

@[simp] theorem State.rim_confirmOperation (s : State) (pub : Publication) (op : Operation)
    (holder : Option Station) (index : Nat) :
    (s.confirmOperation pub op holder index).rim = s.rim := by
  unfold State.confirmOperation
  (repeat' split) <;> simp

@[simp] theorem State.rim_recallUnheld (s : State) (index : Nat) (holder : Option Station) :
    (s.recallUnheld index holder).rim = s.rim := by
  unfold State.recallUnheld
  split <;> simp

@[simp] theorem State.rim_homeWork (s : State) (pub : Publication) (rd : Reading) (index : Nat) :
    (s.homeWork pub rd index).rim = s.rim := by
  unfold State.homeWork
  (repeat' split) <;> simp

@[simp] theorem State.rim_awaitData (s : State) (p : RecordTag) (supplier : Station) :
    (s.awaitData p supplier).rim = s.rim := by
  unfold State.awaitData
  simp

@[simp] theorem State.rim_ownClaim (s : State) (p : RecordTag) (r : Record) :
    (s.ownClaim p r).rim = s.rim := by
  unfold State.ownClaim
  split <;> simp

@[simp] theorem State.rim_ownWriteThrough (s : State) (p : RecordTag) (r : Record) (keeps : Bool) :
    (s.ownWriteThrough p r keeps).rim = s.rim := by
  unfold State.ownWriteThrough
  (repeat' split) <;> simp

@[simp] theorem State.rim_ownOperate (s : State) (p : RecordTag) (r : Record) (home : Station) :
    (s.ownOperate p r home).rim = s.rim := by
  unfold State.ownOperate
  (repeat' split) <;> simp

@[simp] theorem State.rim_ownEffect (s : State) (p : RecordTag) (r : Record) (keeps : Bool)
    (holder : Option Station) (home : Station) :
    (s.ownEffect p r keeps holder home).rim = s.rim := by
  unfold State.ownEffect
  (repeat' split) <;> simp

@[simp] theorem State.rim_exhaustionOutcome (s : State) (rcl : Option RecordTag) (pubSilent : Bool) :
    (s.exhaustionOutcome rcl pubSilent).rim = s.rim := by
  unfold State.exhaustionOutcome
  (repeat' split) <;> simp

@[simp] theorem State.rim_freeUsed (s : State) (d : Data) : (s.freeUsed d).rim = s.rim := by
  unfold State.freeUsed
  split <;> rfl

@[simp] theorem State.rim_takeFill (s : State) (p : RecordTag) (r : Record) (d : Data) :
    (s.takeFill p r d).rim = s.rim := by
  unfold State.takeFill
  simp only []
  (repeat' (first | split | (refine (rim_foldl _ (fun s a => ?_) _ _).trans ?_))) <;> first | rfl | (simp; done) | (simp; rfl)

@[simp] theorem State.rim_closeWith (s : State) (p : RecordTag) (r : Record) (st : Status)
    (ws : List Word) :
    (s.closeWith p r st ws).rim = s.rim := by
  unfold State.closeWith
  apply rim_foldl
  intro s a
  simp

@[simp] theorem State.rim_takeDirect (s : State) (p : RecordTag) (r : Record) (d : Data) :
    (s.takeDirect p r d).rim = s.rim := by
  unfold State.takeDirect
  simp

@[simp] theorem State.rim_takeResult (s : State) (p : RecordTag) (r : Record) (d : Data) :
    (s.takeResult p r d).rim = s.rim := by
  unfold State.takeResult
  simp

@[simp] theorem State.rim_takeRecall (s : State) (p : RecordTag) (r : Record) (d : Data) :
    (s.takeRecall p r d).rim = s.rim := by
  unfold State.takeRecall
  simp only []
  (repeat' (first | split | (refine (rim_foldl _ (fun s a => ?_) _ _).trans ?_))) <;> first | rfl | (simp; done) | (simp; rfl)

@[simp] theorem State.rim_takeData (s : State) (p : RecordTag) (r : Record) (d : Data) :
    (s.takeData p r d).rim = s.rim := by
  unfold State.takeData
  split <;> simp

@[simp] theorem State.rim_takeHolderData (s : State) (h : Fin 8) (d : Data) :
    (s.takeHolderData h d).rim = s.rim := by
  unfold State.takeHolderData
  simp only []
  (repeat' (first | split | (refine (rim_foldl _ (fun s a => ?_) _ _).trans ?_))) <;> first | rfl | (simp; done) | (simp; rfl)

@[simp] theorem State.rim_receiveData (s : State) (pub : Publication) (d : Data) :
    (s.receiveData pub d).rim = s.rim := by
  unfold State.receiveData
  (repeat' split) <;> simp

@[simp] theorem State.rim_writeBack (s : State) (pub : Publication) (d : Data) :
    (s.writeBack pub d).rim = s.rim := by
  unfold State.writeBack
  (repeat' split) <;> simp

@[simp] theorem State.rim_settleOwed (s : State) (pub : Publication) :
    (s.settleOwed pub).rim = s.rim := by
  unfold State.settleOwed
  (repeat' split) <;> simp

@[simp] theorem State.rim_releaseSource (s : State) (own : Option Source) :
    (s.releaseSource own).rim = s.rim := by
  unfold State.releaseSource
  split <;> rfl

@[simp] theorem State.rim_dataEffect (s : State) (pub : Publication) (own : Option Source) (d : Data) :
    (s.dataEffect pub own d).rim = s.rim := by
  unfold State.dataEffect
  simp only []
  (repeat' (first | split | (refine (rim_foldl _ (fun s a => ?_) _ _).trans ?_))) <;> first | rfl | (simp; done) | (simp; rfl)

@[simp] theorem State.rim_dismissPool (s : State) : s.dismissPool.rim = s.rim := by
  unfold State.dismissPool
  rw [State.rim_vacate, State.rim_dropAccesses]
  apply rim_foldl
  intro s a
  simp

@[simp] theorem State.rim_dropForJoiner (s : State) (j : Station) :
    (s.dropForJoiner j).rim = s.rim := rfl

@[simp] theorem State.rim_setInFlight (s : State) (l : List Access) :
    (s.setInFlight l).rim = s.rim := rfl

@[simp] theorem State.rim_correctLoan (s : State) (l : LineAddr) (kind : Kind) (r : Station) :
    (s.correctLoan l kind r).rim = s.rim := by
  unfold State.correctLoan
  split <;> simp

@[simp] theorem State.rim_memoryWriteEnd (s : State) : s.memoryWriteEnd.rim = s.rim := by
  unfold State.memoryWriteEnd
  split <;> simp

@[simp] theorem State.rim_deliverResult (s : State) (h : Fin 8) (o : OpResult) :
    (s.deliverResult h o).rim = s.rim := by
  unfold State.deliverResult
  (repeat' split) <;> simp

@[simp] theorem State.rim_deliver (s : State) (r : Run) (o : OpResult) :
    (s.deliver r o).rim = s.rim := by
  unfold State.deliver
  split <;> simp

@[simp] theorem State.rim_drainEnd (s : State) : s.drainEnd.rim = s.rim := by
  unfold State.drainEnd
  (repeat' split) <;> simp

end Sys2Proof.Machine
end

