-- ==== Sys2Proof/Laws/Tables.lean ====
section
/-! SUPPORT. Sparse tables: what is read after a write or a map, and that the canonical form is kept;
the same for the bytes of the home memory. -/
namespace Sys2Proof.Machine

/-! ### The canonical form -/

theorem tableSortedFrom_mono {α : Type} {j k : Nat} (h : j ≤ k) (t : List (Nat × α))
    (ht : tableSortedFrom k t = true) : tableSortedFrom j t = true := by
  cases t with
  | nil => rfl
  | cons e t =>
    simp only [tableSortedFrom, Bool.and_eq_true, decide_eq_true_eq] at ht ⊢
    exact ⟨Nat.lt_of_le_of_lt h ht.1, ht.2⟩

theorem tableSorted_of_from {α : Type} {k : Nat} (t : List (Nat × α))
    (ht : tableSortedFrom k t = true) : tableSorted t = true := by
  cases t with
  | nil => rfl
  | cons e t =>
    simp only [tableSortedFrom, Bool.and_eq_true] at ht
    exact ht.2

theorem tableSet_sortedFrom {α : Type} [DecidableEq α] (d : Nat → α) (k : Nat) (v : α)
    (t : List (Nat × α)) : ∀ j, j < k → tableSortedFrom j t = true →
      tableSortedFrom j (tableSet d k v t) = true := by
  induction t with
  | nil => intro j hj _; unfold tableSet; split <;> simp [tableSortedFrom, hj]
  | cons e t ih =>
    obtain ⟨i, w⟩ := e
    intro j hj ht
    simp only [tableSortedFrom, Bool.and_eq_true, decide_eq_true_eq] at ht
    unfold tableSet
    split
    · split
      · simp [tableSortedFrom, ht.1, ht.2]
      · rename_i h _; simp [tableSortedFrom, hj, h, ht.2]
    · split
      · rename_i h; subst h
        split
        · exact tableSortedFrom_mono (Nat.le_of_lt hj) t ht.2
        · simp [tableSortedFrom, hj, ht.2]
      · rename_i h1 h2
        simp only [tableSortedFrom, Bool.and_eq_true, decide_eq_true_eq]
        exact ⟨ht.1, ih i (by omega) ht.2⟩

theorem tableSet_sorted {α : Type} [DecidableEq α] (d : Nat → α) (k : Nat) (v : α)
    (t : List (Nat × α)) (ht : tableSorted t = true) : tableSorted (tableSet d k v t) = true := by
  cases t with
  | nil => unfold tableSet; split <;> rfl
  | cons e t =>
    obtain ⟨i, w⟩ := e
    simp only [tableSorted] at ht
    unfold tableSet
    split
    · split
      · simp [tableSorted, ht]
      · rename_i h _; simp [tableSorted, tableSortedFrom, h, ht]
    · split
      · rename_i h; subst h
        split
        · exact tableSorted_of_from t ht
        · simp [tableSorted, ht]
      · rename_i h1 h2
        simp only [tableSorted]
        exact tableSet_sortedFrom d k v t i (by omega) ht

theorem tableSet_listed {α : Type} [DecidableEq α] (d : Nat → α) (k : Nat) (v : α)
    (t : List (Nat × α)) (ht : t.all (fun e => e.2 ≠ d e.1) = true) :
    (tableSet d k v t).all (fun e => e.2 ≠ d e.1) = true := by
  induction t with
  | nil => unfold tableSet; split <;> simp_all
  | cons e t ih =>
    obtain ⟨i, w⟩ := e
    simp only [List.all_cons, Bool.and_eq_true] at ht
    unfold tableSet
    split
    · split <;> simp_all
    · split
      · split <;> simp_all
      · simp only [List.all_cons, Bool.and_eq_true]; exact ⟨ht.1, ih ht.2⟩

/-- Storing one value keeps a table in canonical form. -/
theorem tableWf_set {α : Type} [DecidableEq α] (d : Nat → α) (k : Nat) (v : α)
    (t : List (Nat × α)) (ht : tableWf d t = true) : tableWf d (tableSet d k v t) = true := by
  simp only [tableWf, Bool.and_eq_true] at ht ⊢
  exact ⟨tableSet_sorted d k v t ht.1, tableSet_listed d k v t ht.2⟩

theorem tableMap_sortedFrom {α : Type} [DecidableEq α] (d : Nat → α) (f : Nat → α → α)
    (t : List (Nat × α)) : ∀ j, tableSortedFrom j t = true →
      tableSortedFrom j (tableMap d f t) = true := by
  induction t with
  | nil => intro j _; rfl
  | cons e t ih =>
    obtain ⟨i, w⟩ := e
    intro j ht
    simp only [tableSortedFrom, Bool.and_eq_true, decide_eq_true_eq] at ht
    unfold tableMap
    split
    · exact ih j (tableSortedFrom_mono (Nat.le_of_lt ht.1) t ht.2)
    · simp only [tableSortedFrom, Bool.and_eq_true, decide_eq_true_eq]
      exact ⟨ht.1, ih i ht.2⟩

theorem tableMap_sorted {α : Type} [DecidableEq α] (d : Nat → α) (f : Nat → α → α)
    (t : List (Nat × α)) (ht : tableSorted t = true) : tableSorted (tableMap d f t) = true := by
  cases t with
  | nil => rfl
  | cons e t =>
    obtain ⟨i, w⟩ := e
    simp only [tableSorted] at ht
    unfold tableMap
    split
    · exact tableSorted_of_from _ (tableMap_sortedFrom d f t i ht)
    · simp only [tableSorted]; exact tableMap_sortedFrom d f t i ht

theorem tableMap_listed {α : Type} [DecidableEq α] (d : Nat → α) (f : Nat → α → α)
    (t : List (Nat × α)) : (tableMap d f t).all (fun e => e.2 ≠ d e.1) = true := by
  induction t with
  | nil => rfl
  | cons e t ih =>
    obtain ⟨i, w⟩ := e
    unfold tableMap
    split
    · exact ih
    · simp_all

/-- Changing every listed value keeps a table in canonical form. -/
theorem tableWf_map {α : Type} [DecidableEq α] (d : Nat → α) (f : Nat → α → α)
    (t : List (Nat × α)) (ht : tableWf d t = true) : tableWf d (tableMap d f t) = true := by
  simp only [tableWf, Bool.and_eq_true] at ht ⊢
  exact ⟨tableMap_sorted d f t ht.1, tableMap_listed d f t⟩

/-! ### What is read -/

theorem tableGet_below {α : Type} (d : Nat → α) (j : Nat) (t : List (Nat × α)) :
    ∀ k, tableSortedFrom k t = true → j ≤ k → tableGet d j t = d j := by
  induction t with
  | nil => intro k _ _; rfl
  | cons e t ih =>
    obtain ⟨i, w⟩ := e
    intro k ht hj
    simp only [tableSortedFrom, Bool.and_eq_true, decide_eq_true_eq] at ht
    unfold tableGet
    rw [if_neg (by omega)]
    exact ih i ht.2 (by omega)

theorem tableGet_set_other {α : Type} [DecidableEq α] (d : Nat → α) (k j : Nat) (v : α)
    (t : List (Nat × α)) (h : j ≠ k) : tableGet d j (tableSet d k v t) = tableGet d j t := by
  have hkj : ¬ k = j := fun e => h e.symm
  induction t with
  | nil => unfold tableSet; split <;> simp [tableGet, hkj]
  | cons e t ih =>
    obtain ⟨i, w⟩ := e
    unfold tableSet
    split
    · split
      · rfl
      · simp [tableGet, hkj]
    · split
      · rename_i hi; subst hi
        split <;> simp [tableGet, hkj]
      · simp only [tableGet, ih]

theorem tableGet_set_from {α : Type} [DecidableEq α] (d : Nat → α) (k : Nat) (v : α)
    (t : List (Nat × α)) : ∀ j, tableSortedFrom j t = true → tableGet d k (tableSet d k v t) = v := by
  induction t with
  | nil => intro j _; unfold tableSet; split <;> simp_all [tableGet]
  | cons e t ih =>
    obtain ⟨i, w⟩ := e
    intro j ht
    simp only [tableSortedFrom, Bool.and_eq_true, decide_eq_true_eq] at ht
    unfold tableSet
    split
    · rename_i hk
      split
      · rename_i hv
        unfold tableGet
        rw [if_neg (by omega), tableGet_below d k t i ht.2 (by omega), hv]
      · simp [tableGet]
    · split
      · rename_i hi; subst hi
        split
        · rename_i hv
          rw [tableGet_below d k t k ht.2 (Nat.le_refl k), hv]
        · simp [tableGet]
      · rename_i h1 h2
        unfold tableGet
        rw [if_neg (by omega)]
        exact ih i ht.2

/-- The value stored at a number is the value read there. -/
theorem tableGet_set_self {α : Type} [DecidableEq α] (d : Nat → α) (k : Nat) (v : α)
    (t : List (Nat × α)) (ht : tableSorted t = true) : tableGet d k (tableSet d k v t) = v := by
  cases t with
  | nil => unfold tableSet; split <;> simp_all [tableGet]
  | cons e t =>
    obtain ⟨i, w⟩ := e
    simp only [tableSorted] at ht
    by_cases hk : k = i
    · subst hk
      unfold tableSet
      rw [if_neg (Nat.lt_irrefl k), if_pos rfl]
      split
      · rename_i hv; rw [tableGet_below d k t k ht (Nat.le_refl k), hv]
      · simp [tableGet]
    · unfold tableSet
      split
      · split
        · rename_i hlt hv
          unfold tableGet
          rw [if_neg (by omega), tableGet_below d k t i ht (by omega), hv]
        · simp [tableGet]
      · unfold tableGet
        rw [if_neg (by omega)]
        exact tableGet_set_from d k v t i ht

/-- The value read after a map that keeps what an unlisted number reads as. -/
theorem tableGet_map {α : Type} [DecidableEq α] (d : Nat → α) (f : Nat → α → α) (k : Nat)
    (hf : f k (d k) = d k) (t : List (Nat × α)) (ht : tableSorted t = true) :
    tableGet d k (tableMap d f t) = f k (tableGet d k t) := by
  induction t with
  | nil => simp [tableMap, tableGet, hf]
  | cons e t ih =>
    obtain ⟨i, w⟩ := e
    simp only [tableSorted] at ht
    have ih' := ih (tableSorted_of_from t ht)
    unfold tableMap
    by_cases hk : i = k
    · subst hk
      split
      · rename_i hv
        rw [tableGet_below d i _ i (tableMap_sortedFrom d f t i ht) (Nat.le_refl i)]
        simp [tableGet, hv]
      · simp [tableGet]
    · split
      · rw [ih']; simp [tableGet, hk]
      · simp [tableGet, hk, ih']

/-! ### The home memory -/

/-- One stored byte keeps the memory in canonical form. -/
theorem Memory.wf_writeByte (m : Memory) (a : Nat) (b : Byte) (h : Memory.wf m = true) :
    Memory.wf (writeByte m a b) = true := tableWf_set memDefault a b m h

/-- Stored bytes keep the memory in canonical form. -/
theorem Memory.wf_writeCells (cells : List Host.Cell) : ∀ m : Memory, Memory.wf m = true →
    Memory.wf (writeCells m cells) = true := by
  induction cells with
  | nil => intro m h; exact h
  | cons c cells ih => intro m h; exact ih _ (Memory.wf_writeByte m c.1 c.2 h)

theorem readByte_writeByte_self (m : Memory) (a : Nat) (b : Byte) (h : Memory.wf m = true) :
    readByte (writeByte m a b) a = b := by
  simp only [Memory.wf, tableWf, Bool.and_eq_true] at h
  exact tableGet_set_self memDefault a b m h.1

theorem readByte_writeByte_other (m : Memory) (a c : Nat) (b : Byte) (h : c ≠ a) :
    readByte (writeByte m a b) c = readByte m c := tableGet_set_other memDefault a c b m h

/-- A byte at an address that no cell names reads as before. -/
theorem readByte_writeCells_other (cells : List Host.Cell) (a : Nat) : ∀ m : Memory,
    (∀ c ∈ cells, c.1 ≠ a) → readByte (writeCells m cells) a = readByte m a := by
  induction cells with
  | nil => intro m _; rfl
  | cons c cells ih =>
    intro m h
    have h1 := ih (writeByte m c.1 c.2) (fun x hx => h x (List.mem_cons_of_mem c hx))
    have h2 := readByte_writeByte_other m c.1 a c.2 (fun e => h c List.mem_cons_self e.symm)
    exact h1.trans h2

end Sys2Proof.Machine
end

