-- ==== Sys2Proof/Laws/Canonical.lean ====
section
/-! SUPPORT. Every operation keeps the home memory, the copy table and the loan table in canonical
form. -/
namespace Sys2Proof.Machine

theorem canonical_foldl {α : Type} (f : State → α → State)
    (h : ∀ s a, s.canonical → (f s a).canonical) (l : List α) :
    ∀ s : State, s.canonical → (l.foldl f s).canonical := by
  induction l with
  | nil => intro s hs; exact hs
  | cons a l ih => intro s hs; exact ih (f s a) (h s a hs)

theorem canonical_ite (c : Prop) [Decidable c] (a b : State) (ha : a.canonical) (hb : b.canonical) :
    (if c then a else b).canonical := by
  by_cases hc : c
  · rw [if_pos hc]; exact ha
  · rw [if_neg hc]; exact hb

/-- Bytes stored in the bank keep the form. -/
theorem State.canonical_store (s : State) (b : Bank) (cells : List Host.Cell) (h : s.canonical)
    (hb : b.mem = writeCells s.bank.mem cells) : ({ s with bank := b } : State).canonical :=
  ⟨by show Memory.wf b.mem = true; rw [hb]; exact Memory.wf_writeCells cells _ h.1, h.2⟩

@[simp] theorem State.canonical_withPort (s : State) (p : LocalPort) (h : s.canonical) :
    ({ s with port := p } : State).canonical := h

@[simp] theorem State.canonical_withBus (s : State) (b : BusInterface) (h : s.canonical) :
    ({ s with bus := b } : State).canonical := h

@[simp] theorem State.canonical_withMembers (s : State) (m : Membership) (h : s.canonical) :
    ({ s with members := m } : State).canonical := h

@[simp] theorem State.canonical_withState (s : State) (x : StationState) (h : s.canonical) :
    ({ s with state := x } : State).canonical := h

@[simp] theorem State.canonical_withHomeQueue (s : State) (q : HomeQueue) (h : s.canonical) :
    ({ s with homeQueue := q } : State).canonical := h

@[simp] theorem State.canonical_withFaults (s : State) (l : List Notice) (h : s.canonical) :
    ({ s with faults := l } : State).canonical := h

@[simp] theorem State.canonical_withDecoder (s : State) (d : Decoder) (h : s.canonical) :
    ({ s with decoder := d } : State).canonical := h

@[simp] theorem State.canonical_withWalk (s : State) (w : Option Walk) (h : s.canonical) :
    ({ s with copy := { s.copy with walk := w } } : State).canonical := h

@[simp] theorem State.canonical_apertureWritten (s : State) (offset w : Word) (h : s.canonical) :
    (s.apertureWritten offset w).canonical := by
  unfold State.apertureWritten
  split <;> exact h

/-- A map over the copy slots keeps the form. -/
theorem State.canonical_mapSlots (s : State) (c : CopyTable) (f : Nat → Slot → Slot) (h : s.canonical)
    (hc : c.slots = tableMap slotDefault f s.copy.slots) : ({ s with copy := c } : State).canonical :=
  ⟨h.1, by show tableWf slotDefault c.slots = true; rw [hc]; exact tableWf_map _ _ _ h.2.1, h.2.2⟩

/-- A map over the loan ways keeps the form. -/
theorem State.canonical_mapLoans (s : State) (f : Nat → LoanWay → LoanWay) (h : s.canonical) :
    ({ s with loans := tableMap loanDefault f s.loans } : State).canonical :=
  ⟨h.1, h.2.1, tableWf_map _ _ _ h.2.2⟩

@[simp] theorem State.canonical_setSlot (s : State) (k : Nat) (v : Slot) (hc : s.canonical) :
    (s.setSlot k v).canonical := by
  exact ⟨hc.1, tableWf_set slotDefault k v s.copy.slots hc.2.1, hc.2.2⟩

@[simp] theorem State.canonical_refreshSlot (s : State) (k : Nat) (hc : s.canonical) :
    (s.refreshSlot k).canonical := by
  unfold State.refreshSlot
  refine canonical_foldl _ (fun s a hc => ?_) _ _ ?_
  · simp only []
    (repeat' split) <;> first | exact hc | simp [hc]
  · exact hc

@[simp] theorem State.canonical_setLoanWay (s : State) (k : Nat) (v : LoanWay) (hc : s.canonical) :
    (s.setLoanWay k v).canonical := by
  exact ⟨hc.1, hc.2.1, tableWf_set loanDefault k v s.loans hc.2.2⟩

@[simp] theorem State.canonical_updateLoan (s : State) (index : Nat) (f : LoanEntry → LoanEntry)
    (hc : s.canonical) :
    (s.updateLoan index f).canonical := by
  unfold State.updateLoan
  (repeat' split) <;> simp [hc]

@[simp] theorem State.canonical_refreshLoanWay (s : State) (k : Nat) (hc : s.canonical) :
    (s.refreshLoanWay k).canonical := by
  unfold State.refreshLoanWay
  refine canonical_foldl _ (fun s a hc => ?_) _ _ ?_
  · simp only []
    (repeat' split) <;> first | exact hc | simp [hc]
  · exact hc

@[simp] theorem State.canonical_refreshLoan (s : State) (index : Nat) (hc : s.canonical) :
    (s.refreshLoan index).canonical := by
  unfold State.refreshLoan
  split <;> simp [hc]

@[simp] theorem State.canonical_setEntry (s : State) (t : Tag) (e : PortEntry) (hc : s.canonical) :
    (s.setEntry t e).canonical := by
  exact hc

@[simp] theorem State.canonical_setProgress (s : State) (t : Tag) (p : Progress) (hc : s.canonical) :
    (s.setProgress t p).canonical := by
  unfold State.setProgress
  split <;> simp [hc]

@[simp] theorem State.canonical_complete (s : State) (t : Tag) (st : Status) (ws : List Word)
    (hc : s.canonical) :
    (s.complete t st ws).canonical := by
  unfold State.complete
  split <;> simp [hc]

@[simp] theorem State.canonical_completeAll (s : State) (ts : List Tag) (st : Status)
    (hc : s.canonical) :
    (s.completeAll ts st).canonical := by
  unfold State.completeAll
  refine canonical_foldl _ (fun s a hc => ?_) _ _ ?_
  · simp [hc]
  · exact hc

@[simp] theorem State.canonical_streamFlushFrom (ts : List Tag) :
    ∀ s : State, s.canonical → (streamFlushFrom ts s).canonical := by
  induction ts with
  | nil => intro s h; exact h
  | cons t ts ih =>
    intro s h
    unfold streamFlushFrom
    split
    · exact ih _ (by simp [h])
    · exact h
    · exact ih s h

@[simp] theorem State.canonical_streamFlush (s : State) (hc : s.canonical) :
    s.streamFlush.canonical := by
  unfold State.streamFlush
  simp [hc]

@[simp] theorem State.canonical_decided (s : State) (t : Tag) (st : Status) (ws : List Word)
    (hc : s.canonical) :
    (s.decided t st ws).canonical := by
  unfold State.decided
  simp [hc]

@[simp] theorem State.canonical_inTakenOrder (s : State) (f : State → State) (hc : s.canonical)
    (hf : (f s).canonical) :
    (s.inTakenOrder f).canonical := by
  unfold State.inTakenOrder
  (repeat' split) <;> first | exact hc | simp_all

@[simp] theorem State.canonical_addOffer (s : State) (o : Offer) (hc : s.canonical) :
    (s.addOffer o).canonical := by
  exact hc

@[simp] theorem State.canonical_withdraw (s : State) (o : Offer) (hc : s.canonical) :
    (s.withdraw o).canonical := by
  exact hc

@[simp] theorem State.canonical_withdrawWhere (s : State) (f : Offer → Bool) (hc : s.canonical) :
    (s.withdrawWhere f).canonical := by
  exact hc

@[simp] theorem State.canonical_settleOffers (s : State) (hc : s.canonical) :
    s.settleOffers.canonical := by
  exact hc

@[simp] theorem State.canonical_haltPort (s : State) (hc : s.canonical) : s.haltPort.canonical := by
  unfold State.haltPort
  refine canonical_foldl _ (fun s a hc => ?_) _ _ ?_
  · simp [hc]
  · exact hc

@[simp] theorem State.canonical_halt (s : State) (hc : s.canonical) : s.halt.canonical := by
  unfold State.halt
  have hp := s.canonical_haltPort hc
  exact ⟨hp.1, tableWf_map _ _ _ hp.2.1, tableWf_map _ _ _ hp.2.2⟩

@[simp] theorem State.canonical_post (s : State) (n : Notice) (hc : s.canonical) :
    (s.post n).canonical := by
  unfold State.post
  (repeat' split) <;> simp [hc]

@[simp] theorem State.canonical_ifLive (s : State) (f : State → State) (hc : s.canonical)
    (hf : (f s).canonical) :
    (s.ifLive f).canonical := by
  unfold State.ifLive
  (repeat' split) <;> first | exact hc | simp_all

@[simp] theorem State.canonical_setPosition (s : State) (p : RecordTag) (v : Position)
    (hc : s.canonical) :
    (s.setPosition p v).canonical := by
  exact hc

@[simp] theorem State.canonical_makeRecord (s : State) (p : RecordTag) (kind : Kind) (l : LineAddr)
    (slot : Option Nat) (tags : List Tag) (payload : Payload) (hc : s.canonical) :
    (s.makeRecord p kind l slot tags payload).canonical := by
  exact hc

@[simp] theorem State.canonical_updateRecord (s : State) (p : RecordTag) (f : Record → Record)
    (hc : s.canonical) :
    (s.updateRecord p f).canonical := by
  unfold State.updateRecord
  split <;> simp [hc]

@[simp] theorem State.canonical_freeRecord (s : State) (p : RecordTag) (hc : s.canonical) :
    (s.freeRecord p).canonical := by
  exact hc

@[simp] theorem State.canonical_setSupply (s : State) (e : Fin 4) (v : SupplyEntry) (hc : s.canonical) :
    (s.setSupply e v).canonical := by
  exact hc

@[simp] theorem State.canonical_releaseSupply (s : State) (hc : s.canonical) :
    s.releaseSupply.canonical := by
  unfold State.releaseSupply
  split <;> simp [hc]

@[simp] theorem State.canonical_readySupply (s : State) (e : Fin 4) (d : Supply) (hc : s.canonical) :
    (s.readySupply e d).canonical := by
  exact hc

@[simp] theorem State.canonical_freeSupplyEntry (s : State) (e : Fin 4) (hc : s.canonical) :
    (s.freeSupplyEntry e).canonical := by
  exact hc

@[simp] theorem State.canonical_setHome (s : State) (e : Fin 8) (v : HomeEntry) (hc : s.canonical) :
    (s.setHome e v).canonical := by
  exact hc

@[simp] theorem State.canonical_takeHome (s : State) (e : Fin 8) (v : HomeEntry) (hc : s.canonical) :
    (s.takeHome e v).canonical := by
  exact hc

@[simp] theorem State.canonical_freeIdle (s : State) (index : Nat) (hc : s.canonical) :
    (s.freeIdle index).canonical := by
  unfold State.freeIdle
  (repeat' split) <;> simp [hc]

@[simp] theorem State.canonical_freeIdleLine (s : State) (l : LineAddr) (hc : s.canonical) :
    (s.freeIdleLine l).canonical := by
  unfold State.freeIdleLine
  split <;> simp [hc]

@[simp] theorem State.canonical_freeHomeEntry (s : State) (e : Fin 8) (hc : s.canonical) :
    (s.freeHomeEntry e).canonical := by
  unfold State.freeHomeEntry
  simp only []
  (repeat' (first | split | (refine canonical_foldl _ (fun s a hc => ?_) _ _ ?_))) <;> first | exact hc | (simp [hc]; done) | (simp_all; done)

@[simp] theorem State.canonical_completeHome (s : State) (t : Tag) (st : Status) (ws : List Word)
    (hc : s.canonical) :
    (s.completeHome t st ws).canonical := by
  unfold State.completeHome
  split <;> simp [hc]

@[simp] theorem State.canonical_issue (s : State) (d : Due) (hc : s.canonical) :
    (s.issue d).canonical := by
  unfold State.issue
  split <;> first | exact hc | (split <;> first | exact hc | exact s.canonical_store _ _ hc rfl)

@[simp] theorem State.canonical_wayLeft (s : State) (k : Nat) (hc : s.canonical) :
    (s.wayLeft k).canonical := hc

@[simp] theorem State.canonical_issueHeld (s : State) (hc : s.canonical) : s.issueHeld.canonical := by
  unfold State.issueHeld
  refine canonical_foldl _ (fun s a hc => ?_) _ _ ?_
  · simp [hc]
  · exact hc

@[simp] theorem State.canonical_dropAccesses (s : State) (hc : s.canonical) :
    s.dropAccesses.canonical :=
  State.canonical_issueHeld _ hc

@[simp] theorem State.canonical_vacate (s : State) (hc : s.canonical) : s.vacate.canonical := hc

@[simp] theorem State.canonical_fillWay (s : State) (t : Tag) (k : Nat) (p : RecordTag)
    (hc : s.canonical) :
    (s.fillWay t k p).canonical := by
  unfold State.fillWay
  (repeat' split) <;> simp (maxDischargeDepth := 30) [hc]

@[simp] theorem State.canonical_settleSuccessor (s : State) (k : Nat) (hc : s.canonical) :
    (s.settleSuccessor k).canonical := by
  unfold State.settleSuccessor
  (repeat' split) <;> simp [hc]

@[simp] theorem State.canonical_mapReady (s : State) (f : ReadyEntry → ReadyEntry) (hc : s.canonical) :
    (s.mapReady f).canonical := by
  exact hc

@[simp] theorem State.canonical_mapWalk (s : State) (f : Walk → Walk) (hc : s.canonical) :
    (s.mapWalk f).canonical := by
  exact hc

@[simp] theorem State.canonical_evictionClosed (s : State) (p : RecordTag) (k : Nat)
    (contended : Bool) (hc : s.canonical) :
    (s.evictionClosed p k contended).canonical := by
  unfold State.evictionClosed
  simp (maxDischargeDepth := 30) [hc]

@[simp] theorem State.canonical_recallClosed (s : State) (l : LineAddr) (lost : Bool)
    (hc : s.canonical) :
    (s.recallClosed l lost).canonical := by
  unfold State.recallClosed
  split <;> simp [hc]

@[simp] theorem State.canonical_recallContended (s : State) (l : LineAddr) (hc : s.canonical) :
    (s.recallContended l).canonical := by
  unfold State.recallContended
  split <;> simp [hc]

@[simp] theorem State.canonical_failSlot (s : State) (r : Record) (st : Status) (hc : s.canonical) :
    (s.failSlot r st).canonical := by
  unfold State.failSlot
  split <;> simp [hc]

@[simp] theorem State.canonical_failPosition (s : State) (p : RecordTag) (r : Record) (fence : Bool)
    (hc : s.canonical) :
    (s.failPosition p r fence).canonical := by
  unfold State.failPosition
  split <;> simp [hc]

@[simp] theorem State.canonical_failParties (s : State) (p : RecordTag) (r : Record) (st : Status)
    (hc : s.canonical) :
    (s.failParties p r st).canonical := by
  unfold State.failParties
  (repeat' split) <;> simp [hc]

@[simp] theorem State.canonical_failRecord (s : State) (p : RecordTag) (st : Status) (fence : Bool)
    (hc : s.canonical) :
    (s.failRecord p st fence).canonical := by
  unfold State.failRecord
  split <;> simp (maxDischargeDepth := 30) [hc]

@[simp] theorem State.canonical_closeEviction (s : State) (p : RecordTag) (hc : s.canonical) :
    (s.closeEviction p).canonical := by
  unfold State.closeEviction
  (repeat' split) <;> simp (maxDischargeDepth := 30) [hc]

@[simp] theorem State.canonical_countRetry (s : State) (p : RecordTag) (hc : s.canonical) :
    (s.countRetry p).canonical := by
  unfold State.countRetry
  (repeat' split) <;> simp (maxDischargeDepth := 30) [hc]

@[simp] theorem State.canonical_actTag (s : State) (k : Nat) (st : Status) (t : Tag)
    (hc : s.canonical) :
    (s.actTag k st t).canonical := by
  unfold State.actTag
  split <;> simp [hc]

@[simp] theorem State.canonical_actTags (s : State) (k : Nat) (st : Status) (ts : List Tag)
    (hc : s.canonical) :
    (s.actTags k st ts).canonical := by
  unfold State.actTags
  refine canonical_foldl _ (fun s a hc => ?_) _ _ ?_
  · simp [hc]
  · exact hc

@[simp] theorem State.canonical_evict (s : State) (k : Nat) (p : RecordTag) (kind : Kind)
    (tags : List Tag) (hc : s.canonical) :
    (s.evict k p kind tags).canonical := by
  unfold State.evict
  simp (maxDischargeDepth := 30) [hc]

@[simp] theorem State.canonical_pruneLists (s : State) (hc : s.canonical) :
    s.pruneLists.canonical := by
  exact hc

@[simp] theorem State.canonical_readyOffers (s : State) (hc : s.canonical) :
    s.readyOffers.canonical := by
  unfold State.readyOffers
  refine canonical_foldl _ (fun s a hc => ?_) _ _ ?_
  · simp [hc]
  · exact hc

@[simp] theorem State.canonical_walkCheck (s : State) (hc : s.canonical) : s.walkCheck.canonical := by
  unfold State.walkCheck
  (repeat' split) <;> simp [hc]

@[simp] theorem State.canonical_drainReads (s : State) (hc : s.canonical) : s.drainReads.canonical := by
  unfold State.drainReads
  split
  · exact ⟨hc.1, tableWf_map _ _ _ hc.2.1, hc.2.2⟩
  · exact hc

@[simp] theorem State.canonical_drainSweep (s : State) (hc : s.canonical) :
    s.drainSweep.canonical := by
  unfold State.drainSweep
  split <;> first | exact hc | exact ⟨hc.1, tableWf_map _ _ _ hc.2.1, tableWf_map _ _ _ hc.2.2⟩

@[simp] theorem State.canonical_settle (s : State) (hc : s.canonical) : s.settle.canonical := by
  unfold State.settle
  simp (maxDischargeDepth := 30) [hc]

@[simp] theorem State.canonical_withPosition (s : State) (t : Tag) (f : RecordTag → State)
    (hc : s.canonical) (hf : ∀ p, (f p).canonical) :
    (s.withPosition t f).canonical := by
  unfold State.withPosition
  (repeat' split) <;> first | exact hc | simp_all

@[simp] theorem State.canonical_releaseReserve (s : State) (t : Tag) (hc : s.canonical) :
    (s.releaseReserve t).canonical := by
  unfold State.releaseReserve
  (repeat' split) <;> simp [hc]

@[simp] theorem State.canonical_merge (s : State) (t : Tag) (p : RecordTag) (hc : s.canonical) :
    (s.merge t p).canonical := by
  unfold State.merge
  simp [hc]

@[simp] theorem State.canonical_evictFor (s : State) (t : Tag) (k : Nat) (p q : RecordTag)
    (hc : s.canonical) :
    (s.evictFor t k p q).canonical := by
  unfold State.evictFor
  simp (maxDischargeDepth := 30) [hc]

@[simp] theorem State.canonical_missHeld (s : State) (t : Tag) (k : Nat) (hc : s.canonical) :
    (s.missHeld t k).canonical := by
  unfold State.missHeld
  (repeat' split) <;> simp [hc]

@[simp] theorem State.canonical_miss (s : State) (t : Tag) (l : LineAddr) (hc : s.canonical) :
    (s.miss t l).canonical := by
  unfold State.miss
  (repeat' split) <;> simp [hc]

@[simp] theorem State.canonical_readHit (s : State) (t : Tag) (k : Nat) (a : Word) (n : Nat)
    (hc : s.canonical) :
    (s.readHit t k a n).canonical := by
  unfold State.readHit
  simp [hc]

@[simp] theorem State.canonical_mergeLineRecord (s : State) (t : Tag) (l : LineAddr) (k : Nat)
    (hc : s.canonical) :
    (s.mergeLineRecord t l k).canonical := by
  unfold State.mergeLineRecord
  split <;> simp [hc]

@[simp] theorem State.canonical_copyRead (s : State) (t : Tag) (l : LineAddr) (a : Word) (n : Nat)
    (hc : s.canonical) :
    (s.copyRead t l a n).canonical := by
  unfold State.copyRead
  (repeat' split) <;> simp [hc]

@[simp] theorem State.canonical_writeHit (s : State) (t : Tag) (k : Nat) (r : Request)
    (hc : s.canonical) :
    (s.writeHit t k r).canonical := by
  unfold State.writeHit
  simp (maxDischargeDepth := 30) [hc]

@[simp] theorem State.canonical_copyWrite (s : State) (t : Tag) (l : LineAddr) (r : Request)
    (hc : s.canonical) :
    (s.copyWrite t l r).canonical := by
  unfold State.copyWrite
  (repeat' split) <;> simp (maxDischargeDepth := 30) [hc]

@[simp] theorem State.canonical_slotless (s : State) (t : Tag) (l : LineAddr) (kind : Kind)
    (payload : Payload) (hc : s.canonical) :
    (s.slotless t l kind payload).canonical := by
  unfold State.slotless State.withPosition
  (repeat' split) <;> simp [hc]

@[simp] theorem State.canonical_operateCopy (s : State) (t : Tag) (k : Nat) (op : PoolOp)
    (e : WindowEntry) (hc : s.canonical) :
    (s.operateCopy t k op e).canonical := by
  unfold State.operateCopy
  simp (maxDischargeDepth := 30) [hc]

@[simp] theorem State.canonical_copyOperation (s : State) (t : Tag) (l : LineAddr) (op : PoolOp)
    (e : WindowEntry) (hc : s.canonical) :
    (s.copyOperation t l op e).canonical := by
  unfold State.copyOperation
  (repeat' split) <;> simp [hc]

@[simp] theorem State.canonical_evictLine (s : State) (t : Tag) (k : Nat) (kind : Kind)
    (hc : s.canonical) :
    (s.evictLine t k kind).canonical := by
  unfold State.evictLine State.withPosition
  (repeat' split) <;> simp [hc]

@[simp] theorem State.canonical_copyMaintain (s : State) (t : Tag) (l : LineAddr) (discard : Bool)
    (hc : s.canonical) :
    (s.copyMaintain t l discard).canonical := by
  unfold State.copyMaintain
  simp only []
  (repeat' (first | split | (refine canonical_foldl _ (fun s a hc => ?_) _ _ ?_))) <;> first | exact hc | (simp [hc]; done) | (simp_all; done)

@[simp] theorem State.canonical_actBank (s : State) (t : Tag) (r : Request) (res : Resolved)
    (hc : s.canonical) :
    (s.actBank t r res).canonical := by
  unfold State.actBank
  split <;> simp [hc]

@[simp] theorem State.canonical_actHome (s : State) (t : Tag) (r : Request) (res : Resolved)
    (hc : s.canonical) :
    (s.actHome t r res).canonical := by
  unfold State.actHome
  (repeat' split) <;> simp (maxDischargeDepth := 30) [hc]

@[simp] theorem State.canonical_makeRecall (s : State) (p : RecordTag) (kind : Kind) (l : LineAddr)
    (index : Nat) (payload : Payload) (hc : s.canonical) :
    (s.makeRecall p kind l index payload).canonical := by
  unfold State.makeRecall
  simp [hc]

@[simp] theorem State.canonical_awaitRecall (s : State) (t : Tag) (e : Fin 8) (kind : Kind)
    (res : Resolved) (hc : s.canonical) :
    (s.awaitRecall t e kind res).canonical := by
  unfold State.awaitRecall
  simp only []
  (repeat' (first | split | (refine canonical_foldl _ (fun s a hc => ?_) _ _ ?_))) <;> first | exact hc | (simp (maxDischargeDepth := 30) [hc]; done) | (simp_all; done)

@[simp] theorem State.canonical_handleHome (s : State) (t : Tag) (r : Request) (res : Resolved)
    (hc : s.canonical) :
    (s.handleHome t r res).canonical := by
  unfold State.handleHome
  simp only []
  (repeat' (first | split | (refine canonical_foldl _ (fun s a hc => ?_) _ _ ?_))) <;> first | exact hc | (simp [hc]; done) | (simp_all; done)

@[simp] theorem State.canonical_handlePrivate (s : State) (t : Tag) (r : Request) (res : Resolved)
    (hc : s.canonical) :
    (s.handlePrivate t r res).canonical := by
  unfold State.handlePrivate
  split <;> simp [hc]

@[simp] theorem State.canonical_route (s : State) (t : Tag) (r : Request) (res : Resolved)
    (hc : s.canonical) :
    (s.route t r res).canonical := by
  unfold State.route
  simp only []
  (repeat' (first | split | (refine canonical_foldl _ (fun s a hc => ?_) _ _ ?_))) <;> first | exact hc | (simp [hc]; done) | (simp_all; done)

@[simp] theorem State.canonical_judge (s : State) (t : Tag) (r : Request) (res : Resolved)
    (hc : s.canonical) :
    (s.judge t r res).canonical := by
  unfold State.judge
  (repeat' split) <;> simp [hc]

@[simp] theorem State.canonical_handle (s : State) (t : Tag) (hc : s.canonical) :
    (s.handle t).canonical := by
  unfold State.handle
  (repeat' split) <;> simp [hc]

@[simp] theorem State.canonical_handleQueued (s : State) (t : Tag) (hc : s.canonical) :
    (s.handleQueued t).canonical := by
  unfold State.handleQueued
  (repeat' split) <;> simp [hc]

@[simp] theorem State.canonical_takeUp (s : State) (ls : List LineAddr) (t : Tag) (hc : s.canonical) :
    (s.takeUp ls t).canonical := by
  unfold State.takeUp
  (repeat' split) <;> simp [hc]

@[simp] theorem State.canonical_takeUpLines (s : State) (ls : List LineAddr) (hc : s.canonical) :
    (s.takeUpLines ls).canonical :=
  canonical_foldl _ (fun s t hc => State.canonical_takeUp s ls t hc) _ _ hc

@[simp] theorem State.canonical_tellParties (s u : State) (hc : u.canonical) :
    (s.tellParties u).canonical := by
  unfold State.tellParties
  split
  · exact State.canonical_inTakenOrder _ _ hc (State.canonical_walkCheck _ (State.canonical_pruneLists _
      (State.canonical_takeUpLines _ _ (State.canonical_pruneLists _ (State.canonical_drainReads _ hc)))))
  · exact hc

@[simp] theorem State.canonical_closing (s : State) (f : State → State) (hf : (f s).canonical) :
    (s.closing f).canonical :=
  s.canonical_tellParties (f s) hf

@[simp] theorem State.canonical_takeUpWaiting (s : State) (hc : s.canonical) :
    s.takeUpWaiting.canonical := by
  unfold State.takeUpWaiting
  exact canonical_foldl _ (fun s t hc => canonical_ite _ _ _ (State.canonical_handle s t hc) hc) _ _ hc

@[simp] theorem State.canonical_turnWalk (s : State) (p : RecordTag) (hc : s.canonical) :
    (s.turnWalk p).canonical := by
  unfold State.turnWalk
  (repeat' split) <;> simp [hc]

@[simp] theorem State.canonical_beginWalk (s : State) (t : Tag) (hc : s.canonical) :
    (s.beginWalk t).canonical :=
  State.canonical_setProgress _ _ _ hc

@[simp] theorem State.canonical_grantRequest (s : State) (t : Tag) (p : RecordTag) (hc : s.canonical) :
    (s.grantRequest t p).canonical := by
  unfold State.grantRequest
  (repeat' split) <;> simp [hc]

@[simp] theorem State.canonical_grantDrain (s : State) (p : RecordTag) (hc : s.canonical) :
    (s.grantDrain p).canonical := by
  unfold State.grantDrain
  (repeat' split) <;> simp [hc]

@[simp] theorem State.canonical_grantOne (s : State) (hc : s.canonical) : s.grantOne.canonical := by
  unfold State.grantOne
  (repeat' split) <;> simp [hc]

@[simp] theorem State.canonical_grantAll (s : State) (hc : s.canonical) : s.grantAll.canonical := by
  unfold State.grantAll
  exact canonical_foldl _ (fun s _ hc => State.canonical_grantOne s hc) _ _ hc

@[simp] theorem State.canonical_grantStep (s : State) (hc : s.canonical) : s.grantStep.canonical :=
  State.canonical_inTakenOrder _ _ hc
    (State.canonical_walkCheck _ (State.canonical_pruneLists _ (State.canonical_grantAll _ hc)))

@[simp] theorem State.canonical_startWalk (s : State) (t : Tag) (hc : s.canonical) :
    (s.startWalk t).canonical :=
  State.canonical_grantStep _ (State.canonical_beginWalk _ _ hc)

@[simp] theorem State.canonical_handleFlushAll (s : State) (t : Tag) (hc : s.canonical) :
    (s.handleFlushAll t).canonical := by
  unfold State.handleFlushAll
  split <;> simp [hc]

@[simp] theorem State.canonical_dispatchPool (s : State) (t : Tag) (r : Request) (a : Word)
    (hc : s.canonical) :
    (s.dispatchPool t r a).canonical := by
  unfold State.dispatchPool
  (repeat' split) <;> simp [hc]

@[simp] theorem State.canonical_dispatchFlushAll (s : State) (t : Tag) (hc : s.canonical) :
    (s.dispatchFlushAll t).canonical := by
  unfold State.dispatchFlushAll
  (repeat' split) <;> simp [hc]

@[simp] theorem State.canonical_doApertureWrite (s : State) (t : Tag) (offset w : Word)
    (hc : s.canonical) :
    (s.doApertureWrite t offset w).canonical := by
  unfold State.doApertureWrite
  (repeat' split) <;> simp [hc]

@[simp] theorem State.canonical_doJoin (s : State) (t : Tag) (hc : s.canonical) :
    (s.doJoin t).canonical := by
  unfold State.doJoin
  (repeat' split) <;> first | exact hc | simp [hc]

@[simp] theorem State.canonical_doLeave (s : State) (t : Tag) (hc : s.canonical) :
    (s.doLeave t).canonical := by
  unfold State.doLeave
  (repeat' split) <;> simp (maxDischargeDepth := 30) [hc]

@[simp] theorem State.canonical_doAckFault (s : State) (t : Tag) (hc : s.canonical) :
    (s.doAckFault t).canonical := by
  unfold State.doAckFault
  split <;> simp [hc]

@[simp] theorem State.canonical_doAckMembership (s : State) (t : Tag) (hc : s.canonical) :
    (s.doAckMembership t).canonical := by
  unfold State.doAckMembership
  split <;> simp [hc]

@[simp] theorem State.canonical_dispatch (s : State) (t : Tag) (r : Request) (hc : s.canonical) :
    (s.dispatch t r).canonical := by
  unfold State.dispatch
  split <;> simp [hc]

@[simp] theorem State.canonical_opened (s : State) (t : Tag) (r : Request) (hc : s.canonical) :
    (s.opened t r).canonical := by
  exact hc

@[simp] theorem State.canonical_present (s : State) (r : Request) (hc : s.canonical) :
    (s.present r).canonical := by
  unfold State.present
  split <;> simp [hc]

@[simp] theorem State.canonical_takeCompletion (s : State) (hc : s.canonical) :
    s.takeCompletion.canonical := by
  unfold State.takeCompletion
  simp only []
  (repeat' (first | split | (refine canonical_foldl _ (fun s a hc => ?_) _ _ ?_))) <;> first | exact hc | (simp [hc]; done) | (simp_all; done)

@[simp] theorem State.canonical_resume (s : State) (t : Tag) (hc : s.canonical) :
    (s.resume t).canonical := by
  unfold State.resume
  (repeat' split) <;> simp [hc]

@[simp] theorem State.canonical_publish (s : State) (src : Source) (pub : Publication)
    (hc : s.canonical) :
    (s.publish src pub).canonical := by
  exact hc

@[simp] theorem State.canonical_contend (s : State) (others : List Contender) (void : Bool)
    (hc : s.canonical) :
    (s.contend others void).canonical := by
  unfold State.contend
  (repeat' split) <;> simp [hc]

@[simp] theorem State.canonical_reserveSupply (s : State) (pub : Publication) (hc : s.canonical) :
    (s.reserveSupply pub).canonical := by
  unfold State.reserveSupply
  split <;> simp [hc]

@[simp] theorem State.canonical_reserveHome (s : State) (pub : Publication) (hc : s.canonical) :
    (s.reserveHome pub).canonical := by
  unfold State.reserveHome
  simp only []
  (repeat' (first | split | (refine canonical_foldl _ (fun s a hc => ?_) _ _ ?_))) <;> first | exact hc | (simp [hc]; done) | (simp_all; done)

@[simp] theorem State.canonical_drive (s : State) (pub : Publication) (r : Reply)
    (exhaustion : Option RecordTag) (hc : s.canonical) :
    (s.drive pub r exhaustion).canonical := by
  exact hc

theorem State.canonical_exhaustionRecall (s : State) (k : Kind) (index : Nat) (h : s.canonical) :
    (s.exhaustionRecall k index).1.canonical := by
  unfold State.exhaustionRecall
  split
  · split
    · exact State.canonical_updateLoan _ _ _ (State.canonical_setPosition _ _ _ h)
    · exact h
  · exact h

@[simp] theorem State.canonical_answerHome (s : State) (pub : Publication) (index : Nat)
    (hc : s.canonical) :
    (s.answerHome pub index).canonical := by
  unfold State.answerHome
  split
  · exact State.canonical_drive _ _ _ _ (State.canonical_exhaustionRecall _ _ _ hc)
  · exact State.canonical_drive _ _ _ _ (State.canonical_reserveHome _ _ hc)

@[simp] theorem State.canonical_answerSnoop (s : State) (pub : Publication) (hc : s.canonical) :
    (s.answerSnoop pub).canonical := by
  unfold State.answerSnoop
  simp only []
  (repeat' (first | split | (refine canonical_foldl _ (fun s a hc => ?_) _ _ ?_))) <;> first | exact hc | (simp [hc]; done) | (simp_all; done)

@[simp] theorem State.canonical_answer (s : State) (pub : Publication) (hc : s.canonical) :
    (s.answer pub).canonical := by
  unfold State.answer
  (repeat' split) <;> simp [hc]

@[simp] theorem State.canonical_observe (s : State) (pub : Publication) (hc : s.canonical) :
    (s.observe pub).canonical := by
  unfold State.observe
  simp only []
  (repeat' (first | split | (refine canonical_foldl _ (fun s a hc => ?_) _ _ ?_))) <;> first | exact hc | (simp [hc]; done) | (simp_all; done)

@[simp] theorem State.canonical_becomeMember (s : State) (hc : s.canonical) :
    s.becomeMember.canonical := by
  exact hc

@[simp] theorem State.canonical_enterMember (s : State) (hc : s.canonical) :
    s.enterMember.canonical :=
  State.canonical_takeUpWaiting _ hc

@[simp] theorem State.canonical_departMembers (s : State) (d : StationSet) (hc : s.canonical) :
    (s.departMembers d).canonical := by
  exact hc

@[simp] theorem State.canonical_departSlots (s : State) (d : StationSet) (hc : s.canonical) :
    (s.departSlots d).canonical := by
  exact s.canonical_mapSlots _ _ hc rfl

@[simp] theorem State.canonical_departPosition (s : State) (d : StationSet) (p : RecordTag)
    (hc : s.canonical) :
    (s.departPosition d p).canonical := by
  unfold State.departPosition
  (repeat' split) <;> simp [hc]

@[simp] theorem State.canonical_departLoans (s : State) (d : StationSet) (hc : s.canonical) :
    (s.departLoans d).canonical := by
  exact s.canonical_mapLoans _ hc

@[simp] theorem State.canonical_startOperation (s : State) (h : Fin 8) (hc : s.canonical) :
    (s.startOperation h).canonical := by
  unfold State.startOperation
  (repeat' split) <;> simp [hc]

@[simp] theorem State.canonical_departHome (s : State) (d : StationSet) (h : Fin 8) (hc : s.canonical) :
    (s.departHome d h).canonical := by
  unfold State.departHome
  split
  · split
    · exact State.canonical_startOperation _ _ (State.canonical_setHome _ _ _ hc)
    · exact hc
  · exact hc

@[simp] theorem State.canonical_departBlocks (s : State) (d : StationSet) (hc : s.canonical) :
    (s.departBlocks d).canonical := by
  unfold State.departBlocks
  simp only []
  refine canonical_foldl _ (fun s a hc => State.canonical_departHome s _ _ hc) _ _ (State.canonical_departLoans _ _ ?_)
  refine canonical_foldl _ (fun s a hc => State.canonical_departPosition s _ _ hc) _ _ (State.canonical_departSlots _ _ ?_)
  exact State.canonical_departMembers _ _ hc

@[simp] theorem State.canonical_abandonLeave (s : State) (hc : s.canonical) :
    s.abandonLeave.canonical := by
  unfold State.abandonLeave
  simp only []
  (repeat' (first | split | (refine canonical_foldl _ (fun s a hc => ?_) _ _ ?_))) <;> first | exact hc | (simp (maxDischargeDepth := 30) [hc]; done) | (simp_all; done)

@[simp] theorem State.canonical_judgeLeave (s : State) (hc : s.canonical) : s.judgeLeave.canonical :=
  canonical_ite _ _ _ (State.canonical_abandonLeave _ hc) hc

@[simp] theorem State.canonical_departEffects (s : State) (d : StationSet) (halts : Bool)
    (hc : s.canonical) : (s.departEffects d halts).canonical :=
  State.canonical_walkCheck _ (State.canonical_pruneLists _ (State.canonical_closing _ _
    (canonical_ite _ _ _ (State.canonical_departBlocks _ _ hc)
      (State.canonical_judgeLeave _ (State.canonical_departBlocks _ _ hc)))))

@[simp] theorem State.canonical_departNotices (s : State) (d : StationSet) (losses : Station → Nat)
    (hc : s.canonical) :
    (s.departNotices d losses).canonical := by
  unfold State.departNotices
  refine canonical_foldl _ (fun s a hc => ?_) _ _ hc
  exact canonical_ite _ _ _ (State.canonical_post _ _ hc) hc

@[simp] theorem State.canonical_departEnd (s : State) (hc : s.canonical) : s.departEnd.canonical := by
  unfold State.departEnd
  (repeat' split) <;> simp (maxDischargeDepth := 30) [hc]

@[simp] theorem State.canonical_depart (s : State) (d : StationSet) (hc : s.canonical) :
    (s.depart d).canonical := by
  unfold State.depart
  split
  · exact hc
  · simp only []
    split
    · exact State.canonical_departNotices _ _ _ (State.canonical_inTakenOrder _ _ hc
        (State.canonical_departEffects _ _ _ hc))
    · exact State.canonical_inTakenOrder _ _ hc (State.canonical_departEnd _ (State.canonical_departNotices _ _ _
        (State.canonical_departEffects _ _ _ hc)))

@[simp] theorem State.canonical_supplySlot (s : State) (pub : Publication) (v : Slot)
    (hc : s.canonical) :
    (s.supplySlot pub v).canonical := by
  unfold State.supplySlot
  split <;> simp [hc]

@[simp] theorem State.canonical_convertClaim (s : State) (k : Nat) (l : LineAddr) (hc : s.canonical) :
    (s.convertClaim k l).canonical := by
  unfold State.convertClaim
  simp only []
  (repeat' (first | split | (refine canonical_foldl _ (fun s a hc => ?_) _ _ ?_))) <;> first | exact hc | (simp [hc]; done) | (simp_all; done)

@[simp] theorem State.canonical_snoopSlot (s : State) (pub : Publication) (k : Nat) (hc : s.canonical) :
    (s.snoopSlot pub k).canonical := by
  unfold State.snoopSlot
  simp only []
  (repeat' split) <;> simp (maxDischargeDepth := 30) [hc]

@[simp] theorem State.canonical_snoopTally (s : State) (pub : Publication) (effect : Bool)
    (hc : s.canonical) :
    (s.snoopTally pub effect).canonical := by
  unfold State.snoopTally
  (repeat' split) <;> simp [hc]

@[simp] theorem State.canonical_releaseHome (s : State) (hc : s.canonical) :
    s.releaseHome.canonical := by
  unfold State.releaseHome
  simp only []
  (repeat' (first | split | (refine canonical_foldl _ (fun s a hc => ?_) _ _ ?_))) <;> first | exact hc | (simp [hc]; done) | (simp_all; done)

@[simp] theorem State.canonical_mismatchCheck (s : State) (pub : Publication) (rd : Reading)
    (index : Nat) (hc : s.canonical) :
    (s.mismatchCheck pub rd index).canonical := by
  unfold State.mismatchCheck
  (repeat' split) <;> simp [hc]

@[simp] theorem State.canonical_allocateLoan (s : State) (k : Kind) (index : Nat) (l : LineAddr)
    (hc : s.canonical) :
    (s.allocateLoan k index l).canonical := by
  unfold State.allocateLoan
  (repeat' split) <;> simp [hc]

@[simp] theorem State.canonical_loanTally (s : State) (pub : Publication) (rd : Reading)
    (index : Nat) (hc : s.canonical) :
    (s.loanTally pub rd index).canonical := by
  unfold State.loanTally
  simp [hc]

@[simp] theorem State.canonical_supplyMemory (s : State) (pub : Publication) (index : Nat)
    (first : BitVec 4) (count : BitVec 5) (hc : s.canonical) :
    (s.supplyMemory pub index first count).canonical := by
  unfold State.supplyMemory
  split <;> simp [hc]

@[simp] theorem State.canonical_confirmOperation (s : State) (pub : Publication) (op : Operation)
    (holder : Option Station) (index : Nat) (hc : s.canonical) :
    (s.confirmOperation pub op holder index).canonical := by
  unfold State.confirmOperation
  split
  · simp only []
    split
    · exact State.canonical_startOperation _ _ hc
    · exact hc
  · exact hc

@[simp] theorem State.canonical_recallUnheld (s : State) (index : Nat) (holder : Option Station)
    (hc : s.canonical) :
    (s.recallUnheld index holder).canonical := by
  unfold State.recallUnheld
  split <;> simp [hc]

@[simp] theorem State.canonical_homeWork (s : State) (pub : Publication) (rd : Reading)
    (index : Nat) (hc : s.canonical) :
    (s.homeWork pub rd index).canonical := by
  unfold State.homeWork
  (repeat' split) <;> simp [hc]

@[simp] theorem State.canonical_homeEffect (s : State) (pub : Publication) (rd : Reading)
    (index : Nat) (hc : s.canonical) :
    (s.homeEffect pub rd index).canonical := by
  unfold State.homeEffect
  refine State.canonical_ifLive _ _ (State.canonical_mismatchCheck _ _ _ _ hc) ?_
  have h2 := State.canonical_mismatchCheck s pub rd index hc
  simp only []
  split <;> simp (maxDischargeDepth := 30) [h2]

@[simp] theorem State.canonical_homeTally (s : State) (pub : Publication) (rd : Reading)
    (index : Nat) (effect : Bool) (hc : s.canonical) :
    (s.homeTally pub rd index effect).canonical := by
  unfold State.homeTally
  split <;> simp [hc]

@[simp] theorem State.canonical_awaitData (s : State) (p : RecordTag) (supplier : Station)
    (hc : s.canonical) :
    (s.awaitData p supplier).canonical := by
  unfold State.awaitData
  simp [hc]

@[simp] theorem State.canonical_ownClaim (s : State) (p : RecordTag) (r : Record) (hc : s.canonical) :
    (s.ownClaim p r).canonical := by
  unfold State.ownClaim
  simp only []
  (repeat' (first | split | (refine canonical_foldl _ (fun s a hc => ?_) _ _ ?_))) <;> first | exact hc | (simp [hc]; done) | (simp_all; done)

@[simp] theorem State.canonical_ownWriteThrough (s : State) (p : RecordTag) (r : Record)
    (keeps : Bool) (hc : s.canonical) :
    (s.ownWriteThrough p r keeps).canonical := by
  unfold State.ownWriteThrough
  simp only []
  (repeat' (first | split | (refine canonical_foldl _ (fun s a hc => ?_) _ _ ?_))) <;> first | exact hc | (simp [hc]; done) | (simp_all; done)

@[simp] theorem State.canonical_ownOperate (s : State) (p : RecordTag) (r : Record) (home : Station)
    (hc : s.canonical) :
    (s.ownOperate p r home).canonical := by
  unfold State.ownOperate
  (repeat' split) <;> simp [hc]

@[simp] theorem State.canonical_ownEffect (s : State) (p : RecordTag) (r : Record) (keeps : Bool)
    (holder : Option Station) (home : Station) (hc : s.canonical) :
    (s.ownEffect p r keeps holder home).canonical := by
  unfold State.ownEffect
  (repeat' split) <;> simp [hc]

@[simp] theorem State.canonical_noteConflict (s : State) (l : LineAddr)
    (conflict : Bool) (hc : s.canonical) :
    (s.noteConflict l conflict).canonical := by
  unfold State.noteConflict
  split <;> simp [hc]

@[simp] theorem State.canonical_exhaustionOutcome (s : State) (rcl : Option RecordTag)
    (pubSilent : Bool) (hc : s.canonical) :
    (s.exhaustionOutcome rcl pubSilent).canonical := by
  unfold State.exhaustionOutcome
  (repeat' split) <;> first | exact hc |
    exact State.canonical_closing _ _ (State.canonical_recallClosed _ _ _ (State.canonical_setPosition _ _ _ hc)) |
    simp [hc]

@[simp] theorem State.canonical_ownTally (s : State) (pub : Publication) (rd : Reading)
    (p : RecordTag) (hc : s.canonical) :
    (s.ownTally pub rd p).canonical := by
  unfold State.ownTally
  (repeat' split) <;> simp [hc]

@[simp] theorem State.canonical_lineTally (s : State) (pub : Publication) (own : Option Source)
    (rd : Reading) (mine rcl : Option RecordTag) (hc : s.canonical) :
    (s.lineTally pub own rd mine rcl).canonical := by
  unfold State.lineTally
  simp only []
  have h1 := State.canonical_exhaustionOutcome s rcl (rd.silent pub.publisher) hc
  split <;> (refine State.canonical_ifLive _ _ ?_ ?_ <;> (repeat' split) <;> simp (maxDischargeDepth := 30) [h1])

@[simp] theorem State.canonical_freeUsed (s : State) (d : Data) (hc : s.canonical) :
    (s.freeUsed d).canonical := by
  unfold State.freeUsed
  split <;> first | exact hc | simp [hc]

@[simp] theorem State.canonical_takeFill (s : State) (p : RecordTag) (r : Record) (d : Data)
    (hc : s.canonical) :
    (s.takeFill p r d).canonical := by
  unfold State.takeFill
  simp only []
  (repeat' split) <;> simp (maxDischargeDepth := 30) [hc]

@[simp] theorem State.canonical_closeWith (s : State) (p : RecordTag) (r : Record) (st : Status)
    (ws : List Word) (hc : s.canonical) :
    (s.closeWith p r st ws).canonical := by
  unfold State.closeWith
  refine canonical_foldl _ (fun s a hc => ?_) _ _ ?_
  · simp [hc]
  · exact hc

@[simp] theorem State.canonical_takeDirect (s : State) (p : RecordTag) (r : Record) (d : Data)
    (hc : s.canonical) :
    (s.takeDirect p r d).canonical := by
  unfold State.takeDirect
  refine canonical_foldl _ (fun s a hc => ?_) _ _ ?_
  · simp [hc]
  · exact hc

@[simp] theorem State.canonical_takeResult (s : State) (p : RecordTag) (r : Record) (d : Data)
    (hc : s.canonical) :
    (s.takeResult p r d).canonical := by
  unfold State.takeResult
  refine canonical_foldl _ (fun s a hc => ?_) _ _ ?_
  · simp [hc]
  · exact hc

@[simp] theorem State.canonical_takeRecall (s : State) (p : RecordTag) (r : Record) (d : Data)
    (hc : s.canonical) :
    (s.takeRecall p r d).canonical := by
  unfold State.takeRecall
  simp only []
  (repeat' (first | split | (refine canonical_foldl _ (fun s a hc => ?_) _ _ ?_))) <;> first | exact hc | (simp (maxDischargeDepth := 30) [hc]; done) | (simp_all; done)

@[simp] theorem State.canonical_takeData (s : State) (p : RecordTag) (r : Record) (d : Data)
    (hc : s.canonical) :
    (s.takeData p r d).canonical := by
  unfold State.takeData
  split <;> simp [hc]

@[simp] theorem State.canonical_takeHolderData (s : State) (h : Fin 8) (d : Data) (hc : s.canonical) :
    (s.takeHolderData h d).canonical := by
  unfold State.takeHolderData
  split
  · split
    · refine State.canonical_startOperation _ _ (State.canonical_setHome _ _ _ ?_)
      split
      · exact State.canonical_updateLoan _ _ _ hc
      · exact State.canonical_freeUsed _ _ (State.canonical_issue _ _ hc)
    · exact hc
  · exact hc

@[simp] theorem State.canonical_receiveData (s : State) (pub : Publication) (d : Data)
    (hc : s.canonical) :
    (s.receiveData pub d).canonical := by
  unfold State.receiveData
  (repeat' split) <;> simp [hc]

@[simp] theorem State.canonical_writeBack (s : State) (pub : Publication) (d : Data)
    (hc : s.canonical) :
    (s.writeBack pub d).canonical := by
  unfold State.writeBack
  (repeat' split) <;> simp [hc]

@[simp] theorem State.canonical_settleOwed (s : State) (pub : Publication) (hc : s.canonical) :
    (s.settleOwed pub).canonical := by
  unfold State.settleOwed
  (repeat' split) <;> simp [hc]

@[simp] theorem State.canonical_releaseSource (s : State) (own : Option Source) (hc : s.canonical) :
    (s.releaseSource own).canonical := by
  unfold State.releaseSource
  split <;> simp [hc]

@[simp] theorem State.canonical_dataEffect (s : State) (pub : Publication) (own : Option Source)
    (d : Data) (hc : s.canonical) :
    (s.dataEffect pub own d).canonical := by
  unfold State.dataEffect
  have h := State.canonical_settleOwed _ pub
    (State.canonical_writeBack _ pub d (State.canonical_releaseSource s own hc))
  exact canonical_ite _ _ _ (State.canonical_closing _ _ (State.canonical_receiveData _ pub d h)) h

@[simp] theorem State.canonical_dismissPool (s : State) (hc : s.canonical) :
    s.dismissPool.canonical := by
  exact State.canonical_dropAccesses _ (canonical_foldl _ (fun s a hc => State.canonical_completeHome s _ _ _ hc) _ _ hc)

@[simp] theorem State.canonical_joinRefused (s : State) (refusers : StationSet) (hc : s.canonical) :
    (s.joinRefused refusers).canonical := by
  refine State.canonical_inTakenOrder _ _ hc (State.canonical_dismissPool _ ?_)
  simp only []
  split <;> first | exact hc | exact State.canonical_decided _ _ _ _ hc

@[simp] theorem State.canonical_joinAdmitted (s : State) (others : StationSet) (hc : s.canonical) :
    (s.joinAdmitted others).canonical := by
  unfold State.joinAdmitted
  simp only []
  split <;> first | exact hc | exact State.canonical_decided _ _ _ _ hc

@[simp] theorem State.canonical_joinEntered (s : State) (others : StationSet) (hc : s.canonical) :
    (s.joinEntered others).canonical :=
  canonical_ite _ _ _ (State.canonical_inTakenOrder _ _ hc
    (State.canonical_takeUpWaiting _ (State.canonical_joinAdmitted _ _ hc))) (State.canonical_joinAdmitted _ _ hc)

@[simp] theorem State.canonical_ownJoin (s : State) (rd : Reading) (hc : s.canonical) :
    (s.ownJoin rd).canonical := by
  exact canonical_ite _ _ _ (State.canonical_joinRefused _ _ hc) (State.canonical_joinEntered _ _ hc)

@[simp] theorem State.canonical_dropForJoiner (s : State) (j : Station) (hc : s.canonical) :
    (s.dropForJoiner j).canonical := by
  exact s.canonical_mapSlots _ _ hc rfl

@[simp] theorem State.canonical_admitJoiner (s : State) (j : Station) (hc : s.canonical) :
    (s.admitJoiner j).canonical := by
  exact State.canonical_grantStep _ (State.canonical_dropForJoiner s j hc)

@[simp] theorem State.canonical_joinTally (s : State) (j : Station) (rd : Reading) (hc : s.canonical) :
    (s.joinTally j rd).canonical := by
  exact canonical_ite _ _ _ hc (State.canonical_admitJoiner _ _ hc)

@[simp] theorem State.canonical_readyTally (s : State) (pub : Publication) (own : Option Source)
    (target : Station) (rd : Reading) (hc : s.canonical) :
    (s.readyTally pub own target rd).canonical := by
  unfold State.readyTally
  simp only []
  (repeat' (first | split | (refine canonical_foldl _ (fun s a hc => ?_) _ _ ?_))) <;> first | exact hc | (simp [hc]; done) | (simp_all; done)

@[simp] theorem State.canonical_ownLeave (s : State) (hc : s.canonical) : s.ownLeave.canonical := by
  refine State.canonical_inTakenOrder _ _ hc (State.canonical_dismissPool _ ?_)
  simp only []
  split <;> first | exact hc | exact State.canonical_decided _ _ _ _ hc

@[simp] theorem State.canonical_leaveTally (s : State) (p : Station) (hc : s.canonical) :
    (s.leaveTally p).canonical := by
  unfold State.leaveTally
  split <;> simp [hc]

@[simp] theorem State.canonical_tenureEffect (s : State) (pub : Publication) (own : Option Source)
    (rd : Reading) (mine rcl : Option RecordTag) (hc : s.canonical) :
    (s.tenureEffect pub own rd mine rcl).canonical := by
  unfold State.tenureEffect
  (repeat' split) <;> simp [hc]

@[simp] theorem State.canonical_jointly (s : State) (several : Bool) (u : State) (hc : u.canonical) :
    (s.jointly several u).canonical := by
  unfold State.jointly
  split
  · exact hc
  · exact hc

@[simp] theorem State.canonical_handleTally (s : State) (pub : Publication) (own : Option Source)
    (rd : Reading) (rcl : Option RecordTag) (hc : s.canonical) :
    (s.handleTally pub own rd rcl).canonical := by
  unfold State.handleTally
  (repeat' split) <;> simp (maxDischargeDepth := 30) [hc]

@[simp] theorem State.canonical_tally (s : State) (k : Kind) (t : Tally) (hc : s.canonical) :
    (s.tally k t).canonical := by
  unfold State.tally
  split
  · exact hc
  · split
    · exact State.canonical_handleTally _ _ _ _ _ hc
    · exact hc

@[simp] theorem State.canonical_deadlineExpiry (s : State) (p : RecordTag) (hc : s.canonical) :
    (s.deadlineExpiry p).canonical := by
  unfold State.deadlineExpiry
  (repeat' split) <;> first | exact hc |
    exact State.canonical_post _ _ (State.canonical_closing _ _ (State.canonical_failRecord _ _ _ _ hc))

@[simp] theorem State.canonical_settleExpiry (s : State) (hc : s.canonical) :
    s.settleExpiry.canonical := by
  unfold State.settleExpiry
  split <;> simp (maxDischargeDepth := 30) [hc]

@[simp] theorem State.canonical_setInFlight (s : State) (l : List Access) (hc : s.canonical) :
    (s.setInFlight l).canonical := by
  exact hc

@[simp] theorem State.canonical_correctLoan (s : State) (l : LineAddr) (kind : Kind) (r : Station)
    (hc : s.canonical) :
    (s.correctLoan l kind r).canonical := by
  unfold State.correctLoan
  split <;> simp [hc]

@[simp] theorem State.canonical_supplyReadDone (s : State) (e : Fin 4) (ws : Line) (err : Bool)
    (hc : s.canonical) :
    (s.supplyReadDone e ws err).canonical := by
  unfold State.supplyReadDone
  (repeat' split) <;> simp (maxDischargeDepth := 30) [hc]

@[simp] theorem State.canonical_supplyReadEnd (s : State) (err : Bool) (hc : s.canonical) :
    (s.supplyReadEnd err).canonical := by
  unfold State.supplyReadEnd
  split <;> simp [hc]

@[simp] theorem State.canonical_localReadDone (s : State) (t : Tag) (lost : Bool) (ws : List Word)
    (err : Bool) (hc : s.canonical) :
    (s.localReadDone t lost ws err).canonical := by
  unfold State.localReadDone
  split <;> simp [hc]

@[simp] theorem State.canonical_localReadEnd (s : State) (err : Bool) (hc : s.canonical) :
    (s.localReadEnd err).canonical := by
  unfold State.localReadEnd
  split <;> simp [hc]

@[simp] theorem State.canonical_memoryWriteEnd (s : State) (hc : s.canonical) :
    s.memoryWriteEnd.canonical := by
  unfold State.memoryWriteEnd
  split <;> simp [hc]

@[simp] theorem State.canonical_deliverResult (s : State) (h : Fin 8) (o : OpResult)
    (hc : s.canonical) :
    (s.deliverResult h o).canonical := by
  unfold State.deliverResult
  (repeat' split) <;> simp [hc]

@[simp] theorem State.canonical_deliver (s : State) (r : Run) (o : OpResult) (hc : s.canonical) :
    (s.deliver r o).canonical := by
  unfold State.deliver
  split <;> simp [hc]

@[simp] theorem State.canonical_runEnd (s : State) (err : Bool) (hc : s.canonical) :
    (s.runEnd err).canonical := by
  unfold State.runEnd
  split
  · exact hc
  · rename_i r _
    have h0 : ({ s with bank := { s.bank with run := none, mem := writeCells s.bank.mem (s.runResult r err).2 } } : State).canonical := s.canonical_store _ _ hc rfl
    have h1 := State.canonical_deliver _ r (s.runResult r err).1 h0
    simp only []
    refine State.canonical_ifLive _ _ ?_ ?_
    · split
      · exact State.canonical_post _ _ h1
      · exact h1
    · split
      · exact State.canonical_issueHeld _ (State.canonical_post _ _ h1)
      · exact State.canonical_issueHeld _ h1

@[simp] theorem State.canonical_drainEnd (s : State) (hc : s.canonical) : s.drainEnd.canonical := by
  unfold State.drainEnd
  (repeat' split) <;> simp [hc]

@[simp] theorem State.canonical_resetStation (s : State) (hc : s.canonical) :
    s.resetStation.canonical := by
  exact ⟨hc.1, rfl, rfl⟩

@[simp] theorem State.canonical_resetPower (s : State) (sn : BitVec 4) (hc : s.canonical) :
    (s.resetPower sn).canonical := by
  exact ⟨hc.1, rfl, rfl⟩

end Sys2Proof.Machine
end

