-- ==== Sys2Proof/Laws/Kept.lean ====
section
/-! SUPPORT. What the operations leave alone, part by part: the bank, the pending positions, the supply
queue, the home queue, the local port, the copy table, the loan table and the flush walk, one lemma for each
operation that keeps the part whole. -/
namespace Sys2Proof.Machine

/-! ### A way that leaves its transient state (R77) -/

@[simp] theorem State.bank_wayLeft (s : State) (k : Nat) : (s.wayLeft k).bank = s.bank := rfl
@[simp] theorem State.positions_wayLeft (s : State) (k : Nat) : (s.wayLeft k).positions = s.positions := rfl
@[simp] theorem State.supply_wayLeft (s : State) (k : Nat) : (s.wayLeft k).supply = s.supply := rfl
@[simp] theorem State.homeQueue_wayLeft (s : State) (k : Nat) : (s.wayLeft k).homeQueue = s.homeQueue := rfl
@[simp] theorem State.copy_wayLeft (s : State) (k : Nat) : (s.wayLeft k).copy = s.copy := rfl
@[simp] theorem State.loans_wayLeft (s : State) (k : Nat) : (s.wayLeft k).loans = s.loans := rfl
@[simp] theorem State.members_wayLeft (s : State) (k : Nat) : (s.wayLeft k).members = s.members := rfl
@[simp] theorem State.state_wayLeft (s : State) (k : Nat) : (s.wayLeft k).state = s.state := rfl
@[simp] theorem State.bus_wayLeft (s : State) (k : Nat) : (s.wayLeft k).bus = s.bus := rfl
@[simp] theorem State.freeNext_wayLeft (s : State) (k : Nat) : (s.wayLeft k).freeNext = s.freeNext := rfl

/-! ### bank -/

theorem bank_foldl {α : Type} (f : State → α → State) (h : ∀ s a, (f s a).bank = s.bank)
    (l : List α) : ∀ s : State, (l.foldl f s).bank = s.bank := by
  induction l with
  | nil => intro s; rfl
  | cons a l ih => intro s; exact (ih (f s a)).trans (h s a)

@[simp] theorem State.bank_refreshSlot (s : State) (k : Nat) : (s.refreshSlot k).bank = s.bank := by
  unfold State.refreshSlot
  apply bank_foldl
  intro s a
  first | rfl | (simp; done) | (simp only []; (repeat' split) <;> first | rfl | (simp; done) | (simp; rfl))

@[simp] theorem State.bank_updateLoan (s : State) (index : Nat) (f : LoanEntry → LoanEntry) :
    (s.updateLoan index f).bank = s.bank := by
  unfold State.updateLoan
  (repeat' split) <;> first | rfl | (simp; done) | (simp; rfl)

@[simp] theorem State.bank_refreshLoanWay (s : State) (k : Nat) :
    (s.refreshLoanWay k).bank = s.bank := by
  unfold State.refreshLoanWay
  apply bank_foldl
  intro s a
  first | rfl | (simp; done) | (simp only []; (repeat' split) <;> first | rfl | (simp; done) | (simp; rfl))

@[simp] theorem State.bank_refreshLoan (s : State) (index : Nat) :
    (s.refreshLoan index).bank = s.bank := by
  unfold State.refreshLoan
  split <;> first | rfl | (simp; done) | (simp; rfl)

@[simp] theorem State.bank_setProgress (s : State) (t : Tag) (p : Progress) :
    (s.setProgress t p).bank = s.bank := by
  unfold State.setProgress
  split <;> first | rfl | (simp; done) | (simp; rfl)

@[simp] theorem State.bank_complete (s : State) (t : Tag) (st : Status) (ws : List Word) :
    (s.complete t st ws).bank = s.bank := by
  unfold State.complete
  split <;> first | rfl | (simp; done) | (simp; rfl)

@[simp] theorem State.bank_completeAll (s : State) (ts : List Tag) (st : Status) :
    (s.completeAll ts st).bank = s.bank := by
  unfold State.completeAll
  apply bank_foldl
  intro s a
  first | rfl | (simp; done) | (simp only []; (repeat' split) <;> first | rfl | (simp; done) | (simp; rfl))

@[simp] theorem State.bank_streamFlushFrom (ts : List Tag) :
    ∀ s : State, (streamFlushFrom ts s).bank = s.bank := by
  induction ts with
  | nil => intro s; rfl
  | cons t ts ih =>
    intro s
    unfold streamFlushFrom
    split
    · rw [ih]; simp
    · rfl
    · exact ih s

@[simp] theorem State.bank_streamFlush (s : State) : s.streamFlush.bank = s.bank := by
  unfold State.streamFlush
  simp

@[simp] theorem State.bank_decided (s : State) (t : Tag) (st : Status) (ws : List Word) :
    (s.decided t st ws).bank = s.bank := by
  unfold State.decided
  simp

@[simp] theorem State.bank_haltPort (s : State) : s.haltPort.bank = s.bank := by
  unfold State.haltPort
  apply bank_foldl
  intro s a
  first | rfl | (simp; done) | (simp only []; (repeat' split) <;> first | rfl | (simp; done) | (simp; rfl))

@[simp] theorem State.bank_updateRecord (s : State) (p : RecordTag) (f : Record → Record) :
    (s.updateRecord p f).bank = s.bank := by
  unfold State.updateRecord
  split <;> first | rfl | (simp; done) | (simp; rfl)

@[simp] theorem State.bank_releaseSupply (s : State) : s.releaseSupply.bank = s.bank := by
  unfold State.releaseSupply
  split <;> first | rfl | (simp; done) | (simp; rfl)

@[simp] theorem State.bank_freeIdle (s : State) (index : Nat) : (s.freeIdle index).bank = s.bank := by
  unfold State.freeIdle
  (repeat' split) <;> first | rfl | (simp; done) | (simp; rfl)

@[simp] theorem State.bank_freeIdleLine (s : State) (l : LineAddr) :
    (s.freeIdleLine l).bank = s.bank := by
  unfold State.freeIdleLine
  split <;> first | rfl | (simp; done) | (simp; rfl)

@[simp] theorem State.bank_freeHomeEntry (s : State) (e : Fin 8) :
    (s.freeHomeEntry e).bank = s.bank := by
  unfold State.freeHomeEntry
  simp only []
  split <;> first | rfl | (simp; done) | (simp; rfl)

@[simp] theorem State.bank_completeHome (s : State) (t : Tag) (st : Status) (ws : List Word) :
    (s.completeHome t st ws).bank = s.bank := by
  unfold State.completeHome
  split <;> first | rfl | (simp; done) | (simp; rfl)

@[simp] theorem State.bank_fillWay (s : State) (t : Tag) (k : Nat) (p : RecordTag) :
    (s.fillWay t k p).bank = s.bank := by
  unfold State.fillWay
  (repeat' split) <;> first | rfl | (simp; done) | (simp; rfl)

@[simp] theorem State.bank_settleSuccessor (s : State) (k : Nat) :
    (s.settleSuccessor k).bank = s.bank := by
  unfold State.settleSuccessor
  (repeat' split) <;> first | rfl | (simp; done) | (simp; rfl)

@[simp] theorem State.bank_evictionClosed (s : State) (p : RecordTag) (k : Nat) (contended : Bool) :
    (s.evictionClosed p k contended).bank = s.bank := by
  unfold State.evictionClosed
  simp

@[simp] theorem State.bank_recallClosed (s : State) (l : LineAddr) (lost : Bool) :
    (s.recallClosed l lost).bank = s.bank := by
  unfold State.recallClosed
  split <;> first | rfl | (simp; done) | (simp; rfl)

@[simp] theorem State.bank_recallContended (s : State) (l : LineAddr) :
    (s.recallContended l).bank = s.bank := by
  unfold State.recallContended
  split <;> first | rfl | (simp; done) | (simp; rfl)

@[simp] theorem State.bank_failSlot (s : State) (r : Record) (st : Status) :
    (s.failSlot r st).bank = s.bank := by
  unfold State.failSlot
  split <;> first | rfl | (simp; done) | (simp; rfl)

@[simp] theorem State.bank_failPosition (s : State) (p : RecordTag) (r : Record) (fence : Bool) :
    (s.failPosition p r fence).bank = s.bank := by
  unfold State.failPosition
  split <;> first | rfl | (simp; done) | (simp; rfl)

@[simp] theorem State.bank_failParties (s : State) (p : RecordTag) (r : Record) (st : Status) :
    (s.failParties p r st).bank = s.bank := by
  unfold State.failParties
  (repeat' split) <;> first | rfl | (simp; done) | (simp; rfl)

@[simp] theorem State.bank_failRecord (s : State) (p : RecordTag) (st : Status) (fence : Bool) :
    (s.failRecord p st fence).bank = s.bank := by
  unfold State.failRecord
  split <;> first | rfl | (simp; done) | (simp; rfl)

@[simp] theorem State.bank_countRetry (s : State) (p : RecordTag) :
    (s.countRetry p).bank = s.bank := by
  unfold State.countRetry
  (repeat' split) <;> first | rfl | (simp; done) | (simp; rfl)

@[simp] theorem State.bank_actTag (s : State) (k : Nat) (st : Status) (t : Tag) :
    (s.actTag k st t).bank = s.bank := by
  unfold State.actTag
  split <;> first | rfl | (simp; done) | (simp; rfl)

@[simp] theorem State.bank_actTags (s : State) (k : Nat) (st : Status) (ts : List Tag) :
    (s.actTags k st ts).bank = s.bank := by
  unfold State.actTags
  apply bank_foldl
  intro s a
  first | rfl | (simp; done) | (simp only []; (repeat' split) <;> first | rfl | (simp; done) | (simp; rfl))

@[simp] theorem State.bank_evict (s : State) (k : Nat) (p : RecordTag) (kind : Kind) (tags : List Tag) :
    (s.evict k p kind tags).bank = s.bank := rfl

@[simp] theorem State.bank_pruneLists (s : State) : s.pruneLists.bank = s.bank := rfl

@[simp] theorem State.bank_readyOffers (s : State) : s.readyOffers.bank = s.bank := by
  unfold State.readyOffers
  apply bank_foldl
  intro s a
  first | rfl | (simp; done) | (simp only []; (repeat' split) <;> first | rfl | (simp; done) | (simp; rfl))

@[simp] theorem State.bank_walkCheck (s : State) : s.walkCheck.bank = s.bank := by
  unfold State.walkCheck
  (repeat' split) <;> first | rfl | (simp; done) | (simp; rfl)

@[simp] theorem State.bank_drainSweep (s : State) : s.drainSweep.bank = s.bank := by
  unfold State.drainSweep
  split <;> first | rfl | (simp; done) | (simp; rfl)

@[simp] theorem State.bank_releaseReserve (s : State) (t : Tag) :
    (s.releaseReserve t).bank = s.bank := by
  unfold State.releaseReserve
  (repeat' split) <;> first | rfl | (simp; done) | (simp; rfl)

@[simp] theorem State.bank_merge (s : State) (t : Tag) (p : RecordTag) :
    (s.merge t p).bank = s.bank := by
  unfold State.merge
  simp

@[simp] theorem State.bank_evictFor (s : State) (t : Tag) (k : Nat) (p q : RecordTag) :
    (s.evictFor t k p q).bank = s.bank := by
  unfold State.evictFor
  simp

@[simp] theorem State.bank_missHeld (s : State) (t : Tag) (k : Nat) :
    (s.missHeld t k).bank = s.bank := by
  unfold State.missHeld
  (repeat' split) <;> first | rfl | (simp; done) | (simp; rfl)

@[simp] theorem State.bank_miss (s : State) (t : Tag) (l : LineAddr) : (s.miss t l).bank = s.bank := by
  unfold State.miss
  (repeat' split) <;> first | rfl | (simp; done) | (simp; rfl)

@[simp] theorem State.bank_readHit (s : State) (t : Tag) (k : Nat) (a : Word) (n : Nat) :
    (s.readHit t k a n).bank = s.bank := by
  unfold State.readHit
  simp

@[simp] theorem State.bank_mergeLineRecord (s : State) (t : Tag) (l : LineAddr) (k : Nat) :
    (s.mergeLineRecord t l k).bank = s.bank := by
  unfold State.mergeLineRecord
  split <;> first | rfl | (simp; done) | (simp; rfl)

@[simp] theorem State.bank_copyRead (s : State) (t : Tag) (l : LineAddr) (a : Word) (n : Nat) :
    (s.copyRead t l a n).bank = s.bank := by
  unfold State.copyRead
  (repeat' split) <;> first | rfl | (simp; done) | (simp; rfl)

@[simp] theorem State.bank_writeHit (s : State) (t : Tag) (k : Nat) (r : Request) :
    (s.writeHit t k r).bank = s.bank := by
  unfold State.writeHit
  simp

@[simp] theorem State.bank_copyWrite (s : State) (t : Tag) (l : LineAddr) (r : Request) :
    (s.copyWrite t l r).bank = s.bank := by
  unfold State.copyWrite State.withPosition
  (repeat' split) <;> first | rfl | (simp; done) | (simp; rfl)

@[simp] theorem State.bank_slotless (s : State) (t : Tag) (l : LineAddr) (kind : Kind)
    (payload : Payload) :
    (s.slotless t l kind payload).bank = s.bank := by
  unfold State.slotless State.withPosition
  (repeat' split) <;> first | rfl | (simp; done) | (simp; rfl)

@[simp] theorem State.bank_operateCopy (s : State) (t : Tag) (k : Nat) (op : PoolOp) (e : WindowEntry) :
    (s.operateCopy t k op e).bank = s.bank := by
  unfold State.operateCopy
  simp

@[simp] theorem State.bank_copyOperation (s : State) (t : Tag) (l : LineAddr) (op : PoolOp)
    (e : WindowEntry) :
    (s.copyOperation t l op e).bank = s.bank := by
  unfold State.copyOperation
  (repeat' split) <;> first | rfl | (simp; done) | (simp; rfl)

@[simp] theorem State.bank_evictLine (s : State) (t : Tag) (k : Nat) (kind : Kind) :
    (s.evictLine t k kind).bank = s.bank := by
  unfold State.evictLine State.withPosition
  (repeat' split) <;> first | rfl | (simp; done) | (simp; rfl)

@[simp] theorem State.bank_copyMaintain (s : State) (t : Tag) (l : LineAddr) (discard : Bool) :
    (s.copyMaintain t l discard).bank = s.bank := by
  unfold State.copyMaintain
  simp only []
  (repeat' split) <;> first | rfl | (simp; done) | (simp; rfl)

@[simp] theorem State.bank_makeRecall (s : State) (p : RecordTag) (kind : Kind) (l : LineAddr)
    (index : Nat) (payload : Payload) :
    (s.makeRecall p kind l index payload).bank = s.bank := by
  unfold State.makeRecall
  (repeat' split) <;> first | rfl | (simp; done) | (simp; rfl)

@[simp] theorem State.bank_awaitRecall (s : State) (t : Tag) (e : Fin 8) (kind : Kind)
    (res : Resolved) :
    (s.awaitRecall t e kind res).bank = s.bank := by
  unfold State.awaitRecall
  simp only []
  (repeat' split) <;> first | rfl | (simp; done) | (simp; rfl)

@[simp] theorem State.bank_turnWalk (s : State) (p : RecordTag) : (s.turnWalk p).bank = s.bank := by
  unfold State.turnWalk
  (repeat' split) <;> first | rfl | (simp; done) | (simp; rfl)

@[simp] theorem State.bank_grantDrain (s : State) (p : RecordTag) :
    (s.grantDrain p).bank = s.bank := by
  unfold State.grantDrain
  (repeat' split) <;> first | rfl | (simp; done) | (simp; rfl)

@[simp] theorem State.bank_doJoin (s : State) (t : Tag) : (s.doJoin t).bank = s.bank := by
  unfold State.doJoin
  (repeat' split) <;> first | rfl | (simp; done) | (simp; rfl)

@[simp] theorem State.bank_doAckFault (s : State) (t : Tag) : (s.doAckFault t).bank = s.bank := by
  unfold State.doAckFault
  split <;> first | rfl | (simp; done) | (simp; rfl)

@[simp] theorem State.bank_doAckMembership (s : State) (t : Tag) :
    (s.doAckMembership t).bank = s.bank := by
  unfold State.doAckMembership
  split <;> first | rfl | (simp; done) | (simp; rfl)

@[simp] theorem State.bank_reserveSupply (s : State) (pub : Publication) :
    (s.reserveSupply pub).bank = s.bank := by
  unfold State.reserveSupply
  split <;> first | rfl | (simp; done) | (simp; rfl)

@[simp] theorem State.bank_reserveHome (s : State) (pub : Publication) :
    (s.reserveHome pub).bank = s.bank := by
  unfold State.reserveHome
  simp only []
  (repeat' split) <;> first | rfl | (simp; done) | (simp; rfl)

@[simp] theorem State.bank_departPosition (s : State) (d : StationSet) (p : RecordTag) :
    (s.departPosition d p).bank = s.bank := by
  unfold State.departPosition
  (repeat' split) <;> first | rfl | (simp; done) | (simp; rfl)

@[simp] theorem State.bank_supplySlot (s : State) (pub : Publication) (v : Slot) :
    (s.supplySlot pub v).bank = s.bank := by
  unfold State.supplySlot
  split <;> first | rfl | (simp; done) | (simp; rfl)

@[simp] theorem State.bank_convertClaim (s : State) (k : Nat) (l : LineAddr) :
    (s.convertClaim k l).bank = s.bank := by
  unfold State.convertClaim
  simp only []
  split <;> first | rfl | (simp; done) | (simp; rfl)

@[simp] theorem State.bank_releaseHome (s : State) : s.releaseHome.bank = s.bank := by
  unfold State.releaseHome
  simp only []
  split <;> first | rfl | (simp; done) | (simp; rfl)

@[simp] theorem State.bank_allocateLoan (s : State) (k : Kind) (index : Nat) (l : LineAddr) :
    (s.allocateLoan k index l).bank = s.bank := by
  unfold State.allocateLoan
  (repeat' split) <;> first | rfl | (simp; done) | (simp; rfl)

@[simp] theorem State.bank_loanTally (s : State) (pub : Publication) (rd : Reading) (index : Nat) :
    (s.loanTally pub rd index).bank = s.bank := by
  unfold State.loanTally
  simp

@[simp] theorem State.bank_recallUnheld (s : State) (index : Nat) (holder : Option Station) :
    (s.recallUnheld index holder).bank = s.bank := by
  unfold State.recallUnheld
  split <;> first | rfl | (simp; done) | (simp; rfl)

@[simp] theorem State.bank_awaitData (s : State) (p : RecordTag) (supplier : Station) :
    (s.awaitData p supplier).bank = s.bank := by
  unfold State.awaitData
  simp

@[simp] theorem State.bank_ownClaim (s : State) (p : RecordTag) (r : Record) :
    (s.ownClaim p r).bank = s.bank := by
  unfold State.ownClaim
  simp only []
  (repeat' (first | split | (refine (bank_foldl _ (fun s a => ?_) _ _).trans ?_))) <;> first | rfl | (simp; done) | (simp; rfl)

@[simp] theorem State.bank_ownWriteThrough (s : State) (p : RecordTag) (r : Record) (keeps : Bool) :
    (s.ownWriteThrough p r keeps).bank = s.bank := by
  unfold State.ownWriteThrough
  simp only []
  (repeat' (first | split | (refine (bank_foldl _ (fun s a => ?_) _ _).trans ?_))) <;> first | rfl | (simp; done) | (simp; rfl)

@[simp] theorem State.bank_ownOperate (s : State) (p : RecordTag) (r : Record) (home : Station) :
    (s.ownOperate p r home).bank = s.bank := by
  unfold State.ownOperate
  (repeat' split) <;> first | rfl | (simp; done) | (simp; rfl)

@[simp] theorem State.bank_freeUsed (s : State) (d : Data) : (s.freeUsed d).bank = s.bank := by
  unfold State.freeUsed
  split <;> first | rfl | (simp; done) | (simp; rfl)

@[simp] theorem State.bank_takeFill (s : State) (p : RecordTag) (r : Record) (d : Data) :
    (s.takeFill p r d).bank = s.bank := by
  unfold State.takeFill
  simp only []
  (repeat' (first | split | (refine (bank_foldl _ (fun s a => ?_) _ _).trans ?_))) <;> first | rfl | (simp; done) | (simp; rfl)

@[simp] theorem State.bank_closeWith (s : State) (p : RecordTag) (r : Record) (st : Status)
    (ws : List Word) :
    (s.closeWith p r st ws).bank = s.bank := by
  unfold State.closeWith
  apply bank_foldl
  intro s a
  first | rfl | (simp; done) | (simp only []; (repeat' split) <;> first | rfl | (simp; done) | (simp; rfl))

@[simp] theorem State.bank_takeDirect (s : State) (p : RecordTag) (r : Record) (d : Data) :
    (s.takeDirect p r d).bank = s.bank := by
  unfold State.takeDirect
  simp

@[simp] theorem State.bank_takeResult (s : State) (p : RecordTag) (r : Record) (d : Data) :
    (s.takeResult p r d).bank = s.bank := by
  unfold State.takeResult
  simp

@[simp] theorem State.bank_settleOwed (s : State) (pub : Publication) :
    (s.settleOwed pub).bank = s.bank := by
  unfold State.settleOwed
  (repeat' split) <;> first | rfl | (simp; done) | (simp; rfl)

@[simp] theorem State.bank_releaseSource (s : State) (own : Option Source) :
    (s.releaseSource own).bank = s.bank := by
  unfold State.releaseSource
  split <;> first | rfl | (simp; done) | (simp; rfl)

@[simp] theorem State.bank_correctLoan (s : State) (l : LineAddr) (kind : Kind) (r : Station) :
    (s.correctLoan l kind r).bank = s.bank := by
  unfold State.correctLoan
  split <;> first | rfl | (simp; done) | (simp; rfl)

@[simp] theorem State.bank_deliverResult (s : State) (h : Fin 8) (o : OpResult) :
    (s.deliverResult h o).bank = s.bank := by
  unfold State.deliverResult
  (repeat' split) <;> first | rfl | (simp; done) | (simp; rfl)

@[simp] theorem State.bank_deliver (s : State) (r : Run) (o : OpResult) :
    (s.deliver r o).bank = s.bank := by
  unfold State.deliver
  split <;> first | rfl | (simp; done) | (simp; rfl)

@[simp] theorem State.bank_drainEnd (s : State) : s.drainEnd.bank = s.bank := by
  unfold State.drainEnd
  (repeat' split) <;> first | rfl | (simp; done) | (simp; rfl)

/-! ### positions -/

theorem positions_foldl {α : Type} (f : State → α → State) (h : ∀ s a, (f s a).positions = s.positions)
    (l : List α) : ∀ s : State, (l.foldl f s).positions = s.positions := by
  induction l with
  | nil => intro s; rfl
  | cons a l ih => intro s; exact (ih (f s a)).trans (h s a)

@[simp] theorem State.positions_refreshSlot (s : State) (k : Nat) :
    (s.refreshSlot k).positions = s.positions := by
  unfold State.refreshSlot
  apply positions_foldl
  intro s a
  first | rfl | (simp; done) | (simp only []; (repeat' split) <;> first | rfl | (simp; done) | (simp; rfl))

@[simp] theorem State.positions_updateLoan (s : State) (index : Nat) (f : LoanEntry → LoanEntry) :
    (s.updateLoan index f).positions = s.positions := by
  unfold State.updateLoan
  (repeat' split) <;> first | rfl | (simp; done) | (simp; rfl)

@[simp] theorem State.positions_refreshLoanWay (s : State) (k : Nat) :
    (s.refreshLoanWay k).positions = s.positions := by
  unfold State.refreshLoanWay
  apply positions_foldl
  intro s a
  first | rfl | (simp; done) | (simp only []; (repeat' split) <;> first | rfl | (simp; done) | (simp; rfl))

@[simp] theorem State.positions_refreshLoan (s : State) (index : Nat) :
    (s.refreshLoan index).positions = s.positions := by
  unfold State.refreshLoan
  split <;> first | rfl | (simp; done) | (simp; rfl)

@[simp] theorem State.positions_setProgress (s : State) (t : Tag) (p : Progress) :
    (s.setProgress t p).positions = s.positions := by
  unfold State.setProgress
  split <;> first | rfl | (simp; done) | (simp; rfl)

@[simp] theorem State.positions_complete (s : State) (t : Tag) (st : Status) (ws : List Word) :
    (s.complete t st ws).positions = s.positions := by
  unfold State.complete
  split <;> first | rfl | (simp; done) | (simp; rfl)

@[simp] theorem State.positions_completeAll (s : State) (ts : List Tag) (st : Status) :
    (s.completeAll ts st).positions = s.positions := by
  unfold State.completeAll
  apply positions_foldl
  intro s a
  first | rfl | (simp; done) | (simp only []; (repeat' split) <;> first | rfl | (simp; done) | (simp; rfl))

@[simp] theorem State.positions_streamFlushFrom (ts : List Tag) :
    ∀ s : State, (streamFlushFrom ts s).positions = s.positions := by
  induction ts with
  | nil => intro s; rfl
  | cons t ts ih =>
    intro s
    unfold streamFlushFrom
    split
    · rw [ih]; simp
    · rfl
    · exact ih s

@[simp] theorem State.positions_streamFlush (s : State) : s.streamFlush.positions = s.positions := by
  unfold State.streamFlush
  simp

@[simp] theorem State.positions_decided (s : State) (t : Tag) (st : Status) (ws : List Word) :
    (s.decided t st ws).positions = s.positions := by
  unfold State.decided
  simp

@[simp] theorem State.positions_haltPort (s : State) : s.haltPort.positions = s.positions := by
  unfold State.haltPort
  apply positions_foldl
  intro s a
  first | rfl | (simp; done) | (simp only []; (repeat' split) <;> first | rfl | (simp; done) | (simp; rfl))

@[simp] theorem State.positions_releaseSupply (s : State) :
    s.releaseSupply.positions = s.positions := by
  unfold State.releaseSupply
  split <;> first | rfl | (simp; done) | (simp; rfl)

@[simp] theorem State.positions_freeIdle (s : State) (index : Nat) :
    (s.freeIdle index).positions = s.positions := by
  unfold State.freeIdle
  (repeat' split) <;> first | rfl | (simp; done) | (simp; rfl)

@[simp] theorem State.positions_freeIdleLine (s : State) (l : LineAddr) :
    (s.freeIdleLine l).positions = s.positions := by
  unfold State.freeIdleLine
  split <;> first | rfl | (simp; done) | (simp; rfl)

@[simp] theorem State.positions_freeHomeEntry (s : State) (e : Fin 8) :
    (s.freeHomeEntry e).positions = s.positions := by
  unfold State.freeHomeEntry
  simp only []
  split <;> first | rfl | (simp; done) | (simp; rfl)

@[simp] theorem State.positions_completeHome (s : State) (t : Tag) (st : Status) (ws : List Word) :
    (s.completeHome t st ws).positions = s.positions := by
  unfold State.completeHome
  split <;> first | rfl | (simp; done) | (simp; rfl)

@[simp] theorem State.positions_issue (s : State) (d : Due) : (s.issue d).positions = s.positions := by
  unfold State.issue
  (repeat' split) <;> first | rfl | (simp; done) | (simp; rfl)

@[simp] theorem State.positions_issueHeld (s : State) : s.issueHeld.positions = s.positions := by
  unfold State.issueHeld
  apply positions_foldl
  intro s a
  first | rfl | (simp; done) | (simp only []; (repeat' split) <;> first | rfl | (simp; done) | (simp; rfl))

@[simp] theorem State.positions_dropAccesses (s : State) :
    s.dropAccesses.positions = s.positions := by
  unfold State.dropAccesses
  simp

@[simp] theorem State.positions_recallClosed (s : State) (l : LineAddr) (lost : Bool) :
    (s.recallClosed l lost).positions = s.positions := by
  unfold State.recallClosed
  split <;> first | rfl | (simp; done) | (simp; rfl)

@[simp] theorem State.positions_recallContended (s : State) (l : LineAddr) :
    (s.recallContended l).positions = s.positions := by
  unfold State.recallContended
  split <;> first | rfl | (simp; done) | (simp; rfl)

@[simp] theorem State.positions_failSlot (s : State) (r : Record) (st : Status) :
    (s.failSlot r st).positions = s.positions := by
  unfold State.failSlot
  split <;> first | rfl | (simp; done) | (simp; rfl)

@[simp] theorem State.positions_actTag (s : State) (k : Nat) (st : Status) (t : Tag) :
    (s.actTag k st t).positions = s.positions := by
  unfold State.actTag
  split <;> first | rfl | (simp; done) | (simp; rfl)

@[simp] theorem State.positions_actTags (s : State) (k : Nat) (st : Status) (ts : List Tag) :
    (s.actTags k st ts).positions = s.positions := by
  unfold State.actTags
  apply positions_foldl
  intro s a
  first | rfl | (simp; done) | (simp only []; (repeat' split) <;> first | rfl | (simp; done) | (simp; rfl))

@[simp] theorem State.positions_pruneLists (s : State) : s.pruneLists.positions = s.positions := rfl

@[simp] theorem State.positions_readyOffers (s : State) : s.readyOffers.positions = s.positions := by
  unfold State.readyOffers
  apply positions_foldl
  intro s a
  first | rfl | (simp; done) | (simp only []; (repeat' split) <;> first | rfl | (simp; done) | (simp; rfl))

@[simp] theorem State.positions_walkCheck (s : State) : s.walkCheck.positions = s.positions := by
  unfold State.walkCheck
  (repeat' split) <;> first | rfl | (simp; done) | (simp; rfl)

@[simp] theorem State.positions_drainSweep (s : State) : s.drainSweep.positions = s.positions := by
  unfold State.drainSweep
  split <;> first | rfl | (simp; done) | (simp; rfl)

@[simp] theorem State.positions_readHit (s : State) (t : Tag) (k : Nat) (a : Word) (n : Nat) :
    (s.readHit t k a n).positions = s.positions := by
  unfold State.readHit
  simp

@[simp] theorem State.positions_writeHit (s : State) (t : Tag) (k : Nat) (r : Request) :
    (s.writeHit t k r).positions = s.positions := by
  unfold State.writeHit
  simp

@[simp] theorem State.positions_operateCopy (s : State) (t : Tag) (k : Nat) (op : PoolOp)
    (e : WindowEntry) :
    (s.operateCopy t k op e).positions = s.positions := by
  unfold State.operateCopy
  simp

@[simp] theorem State.positions_actBank (s : State) (t : Tag) (r : Request) (res : Resolved) :
    (s.actBank t r res).positions = s.positions := by
  unfold State.actBank
  split <;> first | rfl | (simp; done) | (simp; rfl)

@[simp] theorem State.positions_actHome (s : State) (t : Tag) (r : Request) (res : Resolved) :
    (s.actHome t r res).positions = s.positions := by
  unfold State.actHome
  (repeat' split) <;> first | rfl | (simp; done) | (simp; rfl)

@[simp] theorem State.positions_handlePrivate (s : State) (t : Tag) (r : Request) (res : Resolved) :
    (s.handlePrivate t r res).positions = s.positions := by
  unfold State.handlePrivate
  split <;> first | rfl | (simp; done) | (simp; rfl)

@[simp] theorem State.positions_doJoin (s : State) (t : Tag) :
    (s.doJoin t).positions = s.positions := by
  unfold State.doJoin
  (repeat' split) <;> first | rfl | (simp; done) | (simp; rfl)

@[simp] theorem State.positions_doAckFault (s : State) (t : Tag) :
    (s.doAckFault t).positions = s.positions := by
  unfold State.doAckFault
  split <;> first | rfl | (simp; done) | (simp; rfl)

@[simp] theorem State.positions_doAckMembership (s : State) (t : Tag) :
    (s.doAckMembership t).positions = s.positions := by
  unfold State.doAckMembership
  split <;> first | rfl | (simp; done) | (simp; rfl)

@[simp] theorem State.positions_reserveSupply (s : State) (pub : Publication) :
    (s.reserveSupply pub).positions = s.positions := by
  unfold State.reserveSupply
  split <;> first | rfl | (simp; done) | (simp; rfl)

@[simp] theorem State.positions_reserveHome (s : State) (pub : Publication) :
    (s.reserveHome pub).positions = s.positions := by
  unfold State.reserveHome
  simp only []
  (repeat' split) <;> first | rfl | (simp; done) | (simp; rfl)

@[simp] theorem State.positions_startOperation (s : State) (h : Fin 8) :
    (s.startOperation h).positions = s.positions := by
  unfold State.startOperation
  (repeat' split) <;> first | rfl | (simp; done) | (simp; rfl)

@[simp] theorem State.positions_departHome (s : State) (d : StationSet) (h : Fin 8) :
    (s.departHome d h).positions = s.positions := by
  unfold State.departHome
  (repeat' split) <;> first | rfl | (simp; done) | (simp; rfl)

@[simp] theorem State.positions_supplySlot (s : State) (pub : Publication) (v : Slot) :
    (s.supplySlot pub v).positions = s.positions := by
  unfold State.supplySlot
  split <;> first | rfl | (simp; done) | (simp; rfl)

@[simp] theorem State.positions_releaseHome (s : State) : s.releaseHome.positions = s.positions := by
  unfold State.releaseHome
  simp only []
  split <;> first | rfl | (simp; done) | (simp; rfl)

@[simp] theorem State.positions_allocateLoan (s : State) (k : Kind) (index : Nat) (l : LineAddr) :
    (s.allocateLoan k index l).positions = s.positions := by
  unfold State.allocateLoan
  (repeat' split) <;> first | rfl | (simp; done) | (simp; rfl)

@[simp] theorem State.positions_loanTally (s : State) (pub : Publication) (rd : Reading) (index : Nat) :
    (s.loanTally pub rd index).positions = s.positions := by
  unfold State.loanTally
  simp

@[simp] theorem State.positions_supplyMemory (s : State) (pub : Publication) (index : Nat)
    (first : BitVec 4) (count : BitVec 5) :
    (s.supplyMemory pub index first count).positions = s.positions := by
  unfold State.supplyMemory
  split <;> first | rfl | (simp; done) | (simp; rfl)

@[simp] theorem State.positions_confirmOperation (s : State) (pub : Publication) (op : Operation)
    (holder : Option Station) (index : Nat) :
    (s.confirmOperation pub op holder index).positions = s.positions := by
  unfold State.confirmOperation
  (repeat' split) <;> first | rfl | (simp; done) | (simp; rfl)

@[simp] theorem State.positions_recallUnheld (s : State) (index : Nat) (holder : Option Station) :
    (s.recallUnheld index holder).positions = s.positions := by
  unfold State.recallUnheld
  split <;> first | rfl | (simp; done) | (simp; rfl)

@[simp] theorem State.positions_homeWork (s : State) (pub : Publication) (rd : Reading) (index : Nat) :
    (s.homeWork pub rd index).positions = s.positions := by
  unfold State.homeWork
  (repeat' split) <;> first | rfl | (simp; done) | (simp; rfl)

@[simp] theorem State.positions_freeUsed (s : State) (d : Data) :
    (s.freeUsed d).positions = s.positions := by
  unfold State.freeUsed
  split <;> first | rfl | (simp; done) | (simp; rfl)

@[simp] theorem State.positions_takeHolderData (s : State) (h : Fin 8) (d : Data) :
    (s.takeHolderData h d).positions = s.positions := by
  unfold State.takeHolderData
  simp only []
  (repeat' split) <;> first | rfl | (simp; done) | (simp; rfl)

@[simp] theorem State.positions_writeBack (s : State) (pub : Publication) (d : Data) :
    (s.writeBack pub d).positions = s.positions := by
  unfold State.writeBack
  (repeat' split) <;> first | rfl | (simp; done) | (simp; rfl)

@[simp] theorem State.positions_settleOwed (s : State) (pub : Publication) :
    (s.settleOwed pub).positions = s.positions := by
  unfold State.settleOwed
  (repeat' split) <;> first | rfl | (simp; done) | (simp; rfl)

@[simp] theorem State.positions_releaseSource (s : State) (own : Option Source) :
    (s.releaseSource own).positions = s.positions := by
  unfold State.releaseSource
  split <;> first | rfl | (simp; done) | (simp; rfl)

@[simp] theorem State.positions_correctLoan (s : State) (l : LineAddr) (kind : Kind) (r : Station) :
    (s.correctLoan l kind r).positions = s.positions := by
  unfold State.correctLoan
  split <;> first | rfl | (simp; done) | (simp; rfl)

@[simp] theorem State.positions_memoryWriteEnd (s : State) :
    s.memoryWriteEnd.positions = s.positions := by
  unfold State.memoryWriteEnd
  split <;> first | rfl | (simp; done) | (simp; rfl)

@[simp] theorem State.positions_deliverResult (s : State) (h : Fin 8) (o : OpResult) :
    (s.deliverResult h o).positions = s.positions := by
  unfold State.deliverResult
  (repeat' split) <;> first | rfl | (simp; done) | (simp; rfl)

@[simp] theorem State.positions_deliver (s : State) (r : Run) (o : OpResult) :
    (s.deliver r o).positions = s.positions := by
  unfold State.deliver
  split <;> first | rfl | (simp; done) | (simp; rfl)

@[simp] theorem State.positions_drainEnd (s : State) : s.drainEnd.positions = s.positions := by
  unfold State.drainEnd
  (repeat' split) <;> first | rfl | (simp; done) | (simp; rfl)

/-! ### supply -/

theorem supply_foldl {α : Type} (f : State → α → State) (h : ∀ s a, (f s a).supply = s.supply)
    (l : List α) : ∀ s : State, (l.foldl f s).supply = s.supply := by
  induction l with
  | nil => intro s; rfl
  | cons a l ih => intro s; exact (ih (f s a)).trans (h s a)

@[simp] theorem State.supply_refreshSlot (s : State) (k : Nat) :
    (s.refreshSlot k).supply = s.supply := by
  unfold State.refreshSlot
  apply supply_foldl
  intro s a
  first | rfl | (simp; done) | (simp only []; (repeat' split) <;> first | rfl | (simp; done) | (simp; rfl))

@[simp] theorem State.supply_updateLoan (s : State) (index : Nat) (f : LoanEntry → LoanEntry) :
    (s.updateLoan index f).supply = s.supply := by
  unfold State.updateLoan
  (repeat' split) <;> first | rfl | (simp; done) | (simp; rfl)

@[simp] theorem State.supply_refreshLoanWay (s : State) (k : Nat) :
    (s.refreshLoanWay k).supply = s.supply := by
  unfold State.refreshLoanWay
  apply supply_foldl
  intro s a
  first | rfl | (simp; done) | (simp only []; (repeat' split) <;> first | rfl | (simp; done) | (simp; rfl))

@[simp] theorem State.supply_refreshLoan (s : State) (index : Nat) :
    (s.refreshLoan index).supply = s.supply := by
  unfold State.refreshLoan
  split <;> first | rfl | (simp; done) | (simp; rfl)

@[simp] theorem State.supply_setProgress (s : State) (t : Tag) (p : Progress) :
    (s.setProgress t p).supply = s.supply := by
  unfold State.setProgress
  split <;> first | rfl | (simp; done) | (simp; rfl)

@[simp] theorem State.supply_complete (s : State) (t : Tag) (st : Status) (ws : List Word) :
    (s.complete t st ws).supply = s.supply := by
  unfold State.complete
  split <;> first | rfl | (simp; done) | (simp; rfl)

@[simp] theorem State.supply_completeAll (s : State) (ts : List Tag) (st : Status) :
    (s.completeAll ts st).supply = s.supply := by
  unfold State.completeAll
  apply supply_foldl
  intro s a
  first | rfl | (simp; done) | (simp only []; (repeat' split) <;> first | rfl | (simp; done) | (simp; rfl))

@[simp] theorem State.supply_streamFlushFrom (ts : List Tag) :
    ∀ s : State, (streamFlushFrom ts s).supply = s.supply := by
  induction ts with
  | nil => intro s; rfl
  | cons t ts ih =>
    intro s
    unfold streamFlushFrom
    split
    · rw [ih]; simp
    · rfl
    · exact ih s

@[simp] theorem State.supply_streamFlush (s : State) : s.streamFlush.supply = s.supply := by
  unfold State.streamFlush
  simp

@[simp] theorem State.supply_decided (s : State) (t : Tag) (st : Status) (ws : List Word) :
    (s.decided t st ws).supply = s.supply := by
  unfold State.decided
  simp

@[simp] theorem State.supply_haltPort (s : State) : s.haltPort.supply = s.supply := by
  unfold State.haltPort
  apply supply_foldl
  intro s a
  first | rfl | (simp; done) | (simp only []; (repeat' split) <;> first | rfl | (simp; done) | (simp; rfl))

@[simp] theorem State.supply_updateRecord (s : State) (p : RecordTag) (f : Record → Record) :
    (s.updateRecord p f).supply = s.supply := by
  unfold State.updateRecord
  split <;> first | rfl | (simp; done) | (simp; rfl)

@[simp] theorem State.supply_freeIdle (s : State) (index : Nat) :
    (s.freeIdle index).supply = s.supply := by
  unfold State.freeIdle
  (repeat' split) <;> first | rfl | (simp; done) | (simp; rfl)

@[simp] theorem State.supply_freeIdleLine (s : State) (l : LineAddr) :
    (s.freeIdleLine l).supply = s.supply := by
  unfold State.freeIdleLine
  split <;> first | rfl | (simp; done) | (simp; rfl)

@[simp] theorem State.supply_freeHomeEntry (s : State) (e : Fin 8) :
    (s.freeHomeEntry e).supply = s.supply := by
  unfold State.freeHomeEntry
  simp only []
  split <;> first | rfl | (simp; done) | (simp; rfl)

@[simp] theorem State.supply_completeHome (s : State) (t : Tag) (st : Status) (ws : List Word) :
    (s.completeHome t st ws).supply = s.supply := by
  unfold State.completeHome
  split <;> first | rfl | (simp; done) | (simp; rfl)

@[simp] theorem State.supply_issue (s : State) (d : Due) : (s.issue d).supply = s.supply := by
  unfold State.issue
  (repeat' split) <;> first | rfl | (simp; done) | (simp; rfl)

@[simp] theorem State.supply_issueHeld (s : State) : s.issueHeld.supply = s.supply := by
  unfold State.issueHeld
  apply supply_foldl
  intro s a
  first | rfl | (simp; done) | (simp only []; (repeat' split) <;> first | rfl | (simp; done) | (simp; rfl))

@[simp] theorem State.supply_dropAccesses (s : State) :
    s.dropAccesses.supply = s.supply := by
  unfold State.dropAccesses
  simp

@[simp] theorem State.supply_fillWay (s : State) (t : Tag) (k : Nat) (p : RecordTag) :
    (s.fillWay t k p).supply = s.supply := by
  unfold State.fillWay
  (repeat' split) <;> first | rfl | (simp; done) | (simp; rfl)

@[simp] theorem State.supply_settleSuccessor (s : State) (k : Nat) :
    (s.settleSuccessor k).supply = s.supply := by
  unfold State.settleSuccessor
  (repeat' split) <;> first | rfl | (simp; done) | (simp; rfl)

@[simp] theorem State.supply_evictionClosed (s : State) (p : RecordTag) (k : Nat) (contended : Bool) :
    (s.evictionClosed p k contended).supply = s.supply := by
  unfold State.evictionClosed
  simp

@[simp] theorem State.supply_recallClosed (s : State) (l : LineAddr) (lost : Bool) :
    (s.recallClosed l lost).supply = s.supply := by
  unfold State.recallClosed
  split <;> first | rfl | (simp; done) | (simp; rfl)

@[simp] theorem State.supply_recallContended (s : State) (l : LineAddr) :
    (s.recallContended l).supply = s.supply := by
  unfold State.recallContended
  split <;> first | rfl | (simp; done) | (simp; rfl)

@[simp] theorem State.supply_failSlot (s : State) (r : Record) (st : Status) :
    (s.failSlot r st).supply = s.supply := by
  unfold State.failSlot
  split <;> first | rfl | (simp; done) | (simp; rfl)

@[simp] theorem State.supply_failPosition (s : State) (p : RecordTag) (r : Record) (fence : Bool) :
    (s.failPosition p r fence).supply = s.supply := by
  unfold State.failPosition
  split <;> first | rfl | (simp; done) | (simp; rfl)

@[simp] theorem State.supply_failParties (s : State) (p : RecordTag) (r : Record) (st : Status) :
    (s.failParties p r st).supply = s.supply := by
  unfold State.failParties
  (repeat' split) <;> first | rfl | (simp; done) | (simp; rfl)

@[simp] theorem State.supply_failRecord (s : State) (p : RecordTag) (st : Status) (fence : Bool) :
    (s.failRecord p st fence).supply = s.supply := by
  unfold State.failRecord
  split <;> first | rfl | (simp; done) | (simp; rfl)

@[simp] theorem State.supply_countRetry (s : State) (p : RecordTag) :
    (s.countRetry p).supply = s.supply := by
  unfold State.countRetry
  (repeat' split) <;> first | rfl | (simp; done) | (simp; rfl)

@[simp] theorem State.supply_actTag (s : State) (k : Nat) (st : Status) (t : Tag) :
    (s.actTag k st t).supply = s.supply := by
  unfold State.actTag
  split <;> first | rfl | (simp; done) | (simp; rfl)

@[simp] theorem State.supply_actTags (s : State) (k : Nat) (st : Status) (ts : List Tag) :
    (s.actTags k st ts).supply = s.supply := by
  unfold State.actTags
  apply supply_foldl
  intro s a
  first | rfl | (simp; done) | (simp only []; (repeat' split) <;> first | rfl | (simp; done) | (simp; rfl))

@[simp] theorem State.supply_evict (s : State) (k : Nat) (p : RecordTag) (kind : Kind)
    (tags : List Tag) :
    (s.evict k p kind tags).supply = s.supply := rfl

@[simp] theorem State.supply_pruneLists (s : State) : s.pruneLists.supply = s.supply := rfl

@[simp] theorem State.supply_readyOffers (s : State) : s.readyOffers.supply = s.supply := by
  unfold State.readyOffers
  apply supply_foldl
  intro s a
  first | rfl | (simp; done) | (simp only []; (repeat' split) <;> first | rfl | (simp; done) | (simp; rfl))

@[simp] theorem State.supply_walkCheck (s : State) : s.walkCheck.supply = s.supply := by
  unfold State.walkCheck
  (repeat' split) <;> first | rfl | (simp; done) | (simp; rfl)

@[simp] theorem State.supply_drainReads (s : State) : s.drainReads.supply = s.supply := by
  unfold State.drainReads
  split <;> rfl

@[simp] theorem State.supply_drainSweep (s : State) : s.drainSweep.supply = s.supply := by
  unfold State.drainSweep
  split <;> first | rfl | (simp; done) | (simp; rfl)

@[simp] theorem State.supply_releaseReserve (s : State) (t : Tag) :
    (s.releaseReserve t).supply = s.supply := by
  unfold State.releaseReserve
  (repeat' split) <;> first | rfl | (simp; done) | (simp; rfl)

@[simp] theorem State.supply_merge (s : State) (t : Tag) (p : RecordTag) :
    (s.merge t p).supply = s.supply := by
  unfold State.merge
  simp

@[simp] theorem State.supply_evictFor (s : State) (t : Tag) (k : Nat) (p q : RecordTag) :
    (s.evictFor t k p q).supply = s.supply := by
  unfold State.evictFor
  simp

@[simp] theorem State.supply_missHeld (s : State) (t : Tag) (k : Nat) :
    (s.missHeld t k).supply = s.supply := by
  unfold State.missHeld
  (repeat' split) <;> first | rfl | (simp; done) | (simp; rfl)

@[simp] theorem State.supply_miss (s : State) (t : Tag) (l : LineAddr) :
    (s.miss t l).supply = s.supply := by
  unfold State.miss
  (repeat' split) <;> first | rfl | (simp; done) | (simp; rfl)

@[simp] theorem State.supply_readHit (s : State) (t : Tag) (k : Nat) (a : Word) (n : Nat) :
    (s.readHit t k a n).supply = s.supply := by
  unfold State.readHit
  simp

@[simp] theorem State.supply_mergeLineRecord (s : State) (t : Tag) (l : LineAddr) (k : Nat) :
    (s.mergeLineRecord t l k).supply = s.supply := by
  unfold State.mergeLineRecord
  split <;> first | rfl | (simp; done) | (simp; rfl)

@[simp] theorem State.supply_copyRead (s : State) (t : Tag) (l : LineAddr) (a : Word) (n : Nat) :
    (s.copyRead t l a n).supply = s.supply := by
  unfold State.copyRead
  (repeat' split) <;> first | rfl | (simp; done) | (simp; rfl)

@[simp] theorem State.supply_writeHit (s : State) (t : Tag) (k : Nat) (r : Request) :
    (s.writeHit t k r).supply = s.supply := by
  unfold State.writeHit
  simp

@[simp] theorem State.supply_copyWrite (s : State) (t : Tag) (l : LineAddr) (r : Request) :
    (s.copyWrite t l r).supply = s.supply := by
  unfold State.copyWrite State.withPosition
  (repeat' split) <;> first | rfl | (simp; done) | (simp; rfl)

@[simp] theorem State.supply_slotless (s : State) (t : Tag) (l : LineAddr) (kind : Kind)
    (payload : Payload) :
    (s.slotless t l kind payload).supply = s.supply := by
  unfold State.slotless State.withPosition
  (repeat' split) <;> first | rfl | (simp; done) | (simp; rfl)

@[simp] theorem State.supply_operateCopy (s : State) (t : Tag) (k : Nat) (op : PoolOp)
    (e : WindowEntry) :
    (s.operateCopy t k op e).supply = s.supply := by
  unfold State.operateCopy
  simp

@[simp] theorem State.supply_copyOperation (s : State) (t : Tag) (l : LineAddr) (op : PoolOp)
    (e : WindowEntry) :
    (s.copyOperation t l op e).supply = s.supply := by
  unfold State.copyOperation
  (repeat' split) <;> first | rfl | (simp; done) | (simp; rfl)

@[simp] theorem State.supply_evictLine (s : State) (t : Tag) (k : Nat) (kind : Kind) :
    (s.evictLine t k kind).supply = s.supply := by
  unfold State.evictLine State.withPosition
  (repeat' split) <;> first | rfl | (simp; done) | (simp; rfl)

@[simp] theorem State.supply_copyMaintain (s : State) (t : Tag) (l : LineAddr) (discard : Bool) :
    (s.copyMaintain t l discard).supply = s.supply := by
  unfold State.copyMaintain
  simp only []
  (repeat' split) <;> first | rfl | (simp; done) | (simp; rfl)

@[simp] theorem State.supply_actBank (s : State) (t : Tag) (r : Request) (res : Resolved) :
    (s.actBank t r res).supply = s.supply := by
  unfold State.actBank
  split <;> first | rfl | (simp; done) | (simp; rfl)

@[simp] theorem State.supply_actHome (s : State) (t : Tag) (r : Request) (res : Resolved) :
    (s.actHome t r res).supply = s.supply := by
  unfold State.actHome
  (repeat' split) <;> first | rfl | (simp; done) | (simp; rfl)

@[simp] theorem State.supply_makeRecall (s : State) (p : RecordTag) (kind : Kind) (l : LineAddr)
    (index : Nat) (payload : Payload) :
    (s.makeRecall p kind l index payload).supply = s.supply := by
  unfold State.makeRecall
  (repeat' split) <;> first | rfl | (simp; done) | (simp; rfl)

@[simp] theorem State.supply_awaitRecall (s : State) (t : Tag) (e : Fin 8) (kind : Kind)
    (res : Resolved) :
    (s.awaitRecall t e kind res).supply = s.supply := by
  unfold State.awaitRecall
  simp only []
  (repeat' split) <;> first | rfl | (simp; done) | (simp; rfl)

@[simp] theorem State.supply_handleHome (s : State) (t : Tag) (r : Request) (res : Resolved) :
    (s.handleHome t r res).supply = s.supply := by
  unfold State.handleHome
  simp only []
  (repeat' split) <;> first | rfl | (simp; done) | (simp; rfl)

@[simp] theorem State.supply_handlePrivate (s : State) (t : Tag) (r : Request) (res : Resolved) :
    (s.handlePrivate t r res).supply = s.supply := by
  unfold State.handlePrivate
  split <;> first | rfl | (simp; done) | (simp; rfl)

@[simp] theorem State.supply_route (s : State) (t : Tag) (r : Request) (res : Resolved) :
    (s.route t r res).supply = s.supply := by
  unfold State.route
  simp only []
  (repeat' split) <;> first | rfl | (simp; done) | (simp; rfl)

@[simp] theorem State.supply_judge (s : State) (t : Tag) (r : Request) (res : Resolved) :
    (s.judge t r res).supply = s.supply := by
  unfold State.judge
  (repeat' split) <;> first | rfl | (simp; done) | (simp; rfl)

@[simp] theorem State.supply_handle (s : State) (t : Tag) : (s.handle t).supply = s.supply := by
  unfold State.handle
  (repeat' split) <;> first | rfl | (simp; done) | (simp; rfl)

@[simp] theorem State.supply_handleQueued (s : State) (t : Tag) :
    (s.handleQueued t).supply = s.supply := by
  unfold State.handleQueued
  (repeat' split) <;> first | rfl | (simp; done) | (simp; rfl)

@[simp] theorem State.supply_turnWalk (s : State) (p : RecordTag) :
    (s.turnWalk p).supply = s.supply := by
  unfold State.turnWalk
  (repeat' split) <;> first | rfl | (simp; done) | (simp; rfl)

@[simp] theorem State.supply_beginWalk (s : State) (t : Tag) : (s.beginWalk t).supply = s.supply := by
  unfold State.beginWalk
  simp

@[simp] theorem State.supply_grantRequest (s : State) (t : Tag) (p : RecordTag) :
    (s.grantRequest t p).supply = s.supply := by
  unfold State.grantRequest
  (repeat' split) <;> first | rfl | (simp; done) | (simp; rfl)

@[simp] theorem State.supply_grantDrain (s : State) (p : RecordTag) :
    (s.grantDrain p).supply = s.supply := by
  unfold State.grantDrain
  (repeat' split) <;> first | rfl | (simp; done) | (simp; rfl)

@[simp] theorem State.supply_grantOne (s : State) : s.grantOne.supply = s.supply := by
  unfold State.grantOne
  (repeat' split) <;> first | rfl | (simp; done) | (simp; rfl)

@[simp] theorem State.supply_grantAll (s : State) : s.grantAll.supply = s.supply := by
  unfold State.grantAll
  exact supply_foldl _ (fun s _ => s.supply_grantOne) _ _

@[simp] theorem State.supply_inTakenOrder (s : State) (f : State → State) :
    (s.inTakenOrder f).supply = (f s).supply := rfl

@[simp] theorem State.supply_grantStep (s : State) : s.grantStep.supply = s.supply := by
  unfold State.grantStep
  simp

@[simp] theorem State.supply_startWalk (s : State) (t : Tag) : (s.startWalk t).supply = s.supply := by
  unfold State.startWalk
  simp

@[simp] theorem State.supply_handleFlushAll (s : State) (t : Tag) :
    (s.handleFlushAll t).supply = s.supply := by
  unfold State.handleFlushAll
  split <;> first | rfl | (simp; done) | (simp; rfl)

@[simp] theorem State.supply_dispatchPool (s : State) (t : Tag) (r : Request) (a : Word) :
    (s.dispatchPool t r a).supply = s.supply := by
  unfold State.dispatchPool
  (repeat' split) <;> first | rfl | (simp; done) | (simp; rfl)

@[simp] theorem State.supply_dispatchFlushAll (s : State) (t : Tag) :
    (s.dispatchFlushAll t).supply = s.supply := by
  unfold State.dispatchFlushAll
  (repeat' split) <;> first | rfl | (simp; done) | (simp; rfl)

@[simp] theorem State.supply_doJoin (s : State) (t : Tag) : (s.doJoin t).supply = s.supply := by
  unfold State.doJoin
  (repeat' split) <;> first | rfl | (simp; done) | (simp; rfl)

@[simp] theorem State.supply_doLeave (s : State) (t : Tag) : (s.doLeave t).supply = s.supply := by
  unfold State.doLeave
  (repeat' split) <;> first | rfl | (simp; done) | (simp; rfl)

@[simp] theorem State.supply_doAckFault (s : State) (t : Tag) :
    (s.doAckFault t).supply = s.supply := by
  unfold State.doAckFault
  split <;> first | rfl | (simp; done) | (simp; rfl)

@[simp] theorem State.supply_doAckMembership (s : State) (t : Tag) :
    (s.doAckMembership t).supply = s.supply := by
  unfold State.doAckMembership
  split <;> first | rfl | (simp; done) | (simp; rfl)

@[simp] theorem State.supply_resume (s : State) (t : Tag) : (s.resume t).supply = s.supply := by
  unfold State.resume
  (repeat' split) <;> first | rfl | (simp; done) | (simp; rfl)

@[simp] theorem State.supply_departPosition (s : State) (d : StationSet) (p : RecordTag) :
    (s.departPosition d p).supply = s.supply := by
  unfold State.departPosition
  (repeat' split) <;> first | rfl | (simp; done) | (simp; rfl)

@[simp] theorem State.supply_startOperation (s : State) (h : Fin 8) :
    (s.startOperation h).supply = s.supply := by
  unfold State.startOperation
  (repeat' split) <;> first | rfl | (simp; done) | (simp; rfl)

@[simp] theorem State.supply_departHome (s : State) (d : StationSet) (h : Fin 8) :
    (s.departHome d h).supply = s.supply := by
  unfold State.departHome
  (repeat' split) <;> first | rfl | (simp; done) | (simp; rfl)

@[simp] theorem State.supply_convertClaim (s : State) (k : Nat) (l : LineAddr) :
    (s.convertClaim k l).supply = s.supply := by
  unfold State.convertClaim
  simp only []
  split <;> first | rfl | (simp; done) | (simp; rfl)

@[simp] theorem State.supply_allocateLoan (s : State) (k : Kind) (index : Nat) (l : LineAddr) :
    (s.allocateLoan k index l).supply = s.supply := by
  unfold State.allocateLoan
  (repeat' split) <;> first | rfl | (simp; done) | (simp; rfl)

@[simp] theorem State.supply_loanTally (s : State) (pub : Publication) (rd : Reading) (index : Nat) :
    (s.loanTally pub rd index).supply = s.supply := by
  unfold State.loanTally
  simp

@[simp] theorem State.supply_recallUnheld (s : State) (index : Nat) (holder : Option Station) :
    (s.recallUnheld index holder).supply = s.supply := by
  unfold State.recallUnheld
  split <;> first | rfl | (simp; done) | (simp; rfl)

@[simp] theorem State.supply_awaitData (s : State) (p : RecordTag) (supplier : Station) :
    (s.awaitData p supplier).supply = s.supply := by
  unfold State.awaitData
  simp

@[simp] theorem State.supply_ownClaim (s : State) (p : RecordTag) (r : Record) :
    (s.ownClaim p r).supply = s.supply := by
  unfold State.ownClaim
  simp only []
  (repeat' (first | split | (refine (supply_foldl _ (fun s a => ?_) _ _).trans ?_))) <;> first | rfl | (simp; done) | (simp; rfl)

@[simp] theorem State.supply_ownWriteThrough (s : State) (p : RecordTag) (r : Record) (keeps : Bool) :
    (s.ownWriteThrough p r keeps).supply = s.supply := by
  unfold State.ownWriteThrough
  simp only []
  (repeat' (first | split | (refine (supply_foldl _ (fun s a => ?_) _ _).trans ?_))) <;> first | rfl | (simp; done) | (simp; rfl)

@[simp] theorem State.supply_ownOperate (s : State) (p : RecordTag) (r : Record) (home : Station) :
    (s.ownOperate p r home).supply = s.supply := by
  unfold State.ownOperate
  (repeat' split) <;> first | rfl | (simp; done) | (simp; rfl)

@[simp] theorem State.supply_freeUsed (s : State) (d : Data) : (s.freeUsed d).supply = s.supply := by
  unfold State.freeUsed
  split <;> first | rfl | (simp; done) | (simp; rfl)

@[simp] theorem State.supply_takeFill (s : State) (p : RecordTag) (r : Record) (d : Data) :
    (s.takeFill p r d).supply = s.supply := by
  unfold State.takeFill
  simp only []
  (repeat' (first | split | (refine (supply_foldl _ (fun s a => ?_) _ _).trans ?_))) <;> first | rfl | (simp; done) | (simp; rfl)

@[simp] theorem State.supply_closeWith (s : State) (p : RecordTag) (r : Record) (st : Status)
    (ws : List Word) :
    (s.closeWith p r st ws).supply = s.supply := by
  unfold State.closeWith
  apply supply_foldl
  intro s a
  first | rfl | (simp; done) | (simp only []; (repeat' split) <;> first | rfl | (simp; done) | (simp; rfl))

@[simp] theorem State.supply_takeDirect (s : State) (p : RecordTag) (r : Record) (d : Data) :
    (s.takeDirect p r d).supply = s.supply := by
  unfold State.takeDirect
  simp

@[simp] theorem State.supply_takeResult (s : State) (p : RecordTag) (r : Record) (d : Data) :
    (s.takeResult p r d).supply = s.supply := by
  unfold State.takeResult
  simp

@[simp] theorem State.supply_takeHolderData (s : State) (h : Fin 8) (d : Data) :
    (s.takeHolderData h d).supply = s.supply := by
  unfold State.takeHolderData
  simp only []
  (repeat' split) <;> first | rfl | (simp; done) | (simp; rfl)

@[simp] theorem State.supply_writeBack (s : State) (pub : Publication) (d : Data) :
    (s.writeBack pub d).supply = s.supply := by
  unfold State.writeBack
  (repeat' split) <;> first | rfl | (simp; done) | (simp; rfl)

@[simp] theorem State.supply_settleOwed (s : State) (pub : Publication) :
    (s.settleOwed pub).supply = s.supply := by
  unfold State.settleOwed
  (repeat' split) <;> first | rfl | (simp; done) | (simp; rfl)

@[simp] theorem State.supply_correctLoan (s : State) (l : LineAddr) (kind : Kind) (r : Station) :
    (s.correctLoan l kind r).supply = s.supply := by
  unfold State.correctLoan
  split <;> first | rfl | (simp; done) | (simp; rfl)

@[simp] theorem State.supply_memoryWriteEnd (s : State) : s.memoryWriteEnd.supply = s.supply := by
  unfold State.memoryWriteEnd
  split <;> first | rfl | (simp; done) | (simp; rfl)

@[simp] theorem State.supply_drainEnd (s : State) : s.drainEnd.supply = s.supply := by
  unfold State.drainEnd
  (repeat' split) <;> first | rfl | (simp; done) | (simp; rfl)

/-! ### homeQueue -/

theorem homeQueue_foldl {α : Type} (f : State → α → State) (h : ∀ s a, (f s a).homeQueue = s.homeQueue)
    (l : List α) : ∀ s : State, (l.foldl f s).homeQueue = s.homeQueue := by
  induction l with
  | nil => intro s; rfl
  | cons a l ih => intro s; exact (ih (f s a)).trans (h s a)

@[simp] theorem State.homeQueue_refreshSlot (s : State) (k : Nat) :
    (s.refreshSlot k).homeQueue = s.homeQueue := by
  unfold State.refreshSlot
  apply homeQueue_foldl
  intro s a
  first | rfl | (simp; done) | (simp only []; (repeat' split) <;> first | rfl | (simp; done) | (simp; rfl))

@[simp] theorem State.homeQueue_updateLoan (s : State) (index : Nat) (f : LoanEntry → LoanEntry) :
    (s.updateLoan index f).homeQueue = s.homeQueue := by
  unfold State.updateLoan
  (repeat' split) <;> first | rfl | (simp; done) | (simp; rfl)

@[simp] theorem State.homeQueue_refreshLoanWay (s : State) (k : Nat) :
    (s.refreshLoanWay k).homeQueue = s.homeQueue := by
  unfold State.refreshLoanWay
  apply homeQueue_foldl
  intro s a
  first | rfl | (simp; done) | (simp only []; (repeat' split) <;> first | rfl | (simp; done) | (simp; rfl))

@[simp] theorem State.homeQueue_refreshLoan (s : State) (index : Nat) :
    (s.refreshLoan index).homeQueue = s.homeQueue := by
  unfold State.refreshLoan
  split <;> first | rfl | (simp; done) | (simp; rfl)

@[simp] theorem State.homeQueue_setProgress (s : State) (t : Tag) (p : Progress) :
    (s.setProgress t p).homeQueue = s.homeQueue := by
  unfold State.setProgress
  split <;> first | rfl | (simp; done) | (simp; rfl)

@[simp] theorem State.homeQueue_complete (s : State) (t : Tag) (st : Status) (ws : List Word) :
    (s.complete t st ws).homeQueue = s.homeQueue := by
  unfold State.complete
  split <;> first | rfl | (simp; done) | (simp; rfl)

@[simp] theorem State.homeQueue_completeAll (s : State) (ts : List Tag) (st : Status) :
    (s.completeAll ts st).homeQueue = s.homeQueue := by
  unfold State.completeAll
  apply homeQueue_foldl
  intro s a
  first | rfl | (simp; done) | (simp only []; (repeat' split) <;> first | rfl | (simp; done) | (simp; rfl))

@[simp] theorem State.homeQueue_streamFlushFrom (ts : List Tag) :
    ∀ s : State, (streamFlushFrom ts s).homeQueue = s.homeQueue := by
  induction ts with
  | nil => intro s; rfl
  | cons t ts ih =>
    intro s
    unfold streamFlushFrom
    split
    · rw [ih]; simp
    · rfl
    · exact ih s

@[simp] theorem State.homeQueue_streamFlush (s : State) : s.streamFlush.homeQueue = s.homeQueue := by
  unfold State.streamFlush
  simp

@[simp] theorem State.homeQueue_decided (s : State) (t : Tag) (st : Status) (ws : List Word) :
    (s.decided t st ws).homeQueue = s.homeQueue := by
  unfold State.decided
  simp

@[simp] theorem State.homeQueue_haltPort (s : State) : s.haltPort.homeQueue = s.homeQueue := by
  unfold State.haltPort
  apply homeQueue_foldl
  intro s a
  first | rfl | (simp; done) | (simp only []; (repeat' split) <;> first | rfl | (simp; done) | (simp; rfl))

@[simp] theorem State.homeQueue_updateRecord (s : State) (p : RecordTag) (f : Record → Record) :
    (s.updateRecord p f).homeQueue = s.homeQueue := by
  unfold State.updateRecord
  split <;> first | rfl | (simp; done) | (simp; rfl)

@[simp] theorem State.homeQueue_releaseSupply (s : State) :
    s.releaseSupply.homeQueue = s.homeQueue := by
  unfold State.releaseSupply
  split <;> first | rfl | (simp; done) | (simp; rfl)

@[simp] theorem State.homeQueue_freeIdle (s : State) (index : Nat) :
    (s.freeIdle index).homeQueue = s.homeQueue := by
  unfold State.freeIdle
  (repeat' split) <;> first | rfl | (simp; done) | (simp; rfl)

@[simp] theorem State.homeQueue_freeIdleLine (s : State) (l : LineAddr) :
    (s.freeIdleLine l).homeQueue = s.homeQueue := by
  unfold State.freeIdleLine
  split <;> first | rfl | (simp; done) | (simp; rfl)

@[simp] theorem State.homeQueue_issue (s : State) (d : Due) : (s.issue d).homeQueue = s.homeQueue := by
  unfold State.issue
  (repeat' split) <;> first | rfl | (simp; done) | (simp; rfl)

@[simp] theorem State.homeQueue_issueHeld (s : State) : s.issueHeld.homeQueue = s.homeQueue := by
  unfold State.issueHeld
  apply homeQueue_foldl
  intro s a
  first | rfl | (simp; done) | (simp only []; (repeat' split) <;> first | rfl | (simp; done) | (simp; rfl))

@[simp] theorem State.homeQueue_dropAccesses (s : State) :
    s.dropAccesses.homeQueue = s.homeQueue := by
  unfold State.dropAccesses
  simp

@[simp] theorem State.homeQueue_fillWay (s : State) (t : Tag) (k : Nat) (p : RecordTag) :
    (s.fillWay t k p).homeQueue = s.homeQueue := by
  unfold State.fillWay
  (repeat' split) <;> first | rfl | (simp; done) | (simp; rfl)

@[simp] theorem State.homeQueue_settleSuccessor (s : State) (k : Nat) :
    (s.settleSuccessor k).homeQueue = s.homeQueue := by
  unfold State.settleSuccessor
  (repeat' split) <;> first | rfl | (simp; done) | (simp; rfl)

@[simp] theorem State.homeQueue_evictionClosed (s : State) (p : RecordTag) (k : Nat)
    (contended : Bool) :
    (s.evictionClosed p k contended).homeQueue = s.homeQueue := by
  unfold State.evictionClosed
  simp

@[simp] theorem State.homeQueue_recallClosed (s : State) (l : LineAddr) (lost : Bool) :
    (s.recallClosed l lost).homeQueue = s.homeQueue := by
  unfold State.recallClosed
  split <;> first | rfl | (simp; done) | (simp; rfl)

@[simp] theorem State.homeQueue_failSlot (s : State) (r : Record) (st : Status) :
    (s.failSlot r st).homeQueue = s.homeQueue := by
  unfold State.failSlot
  split <;> first | rfl | (simp; done) | (simp; rfl)

@[simp] theorem State.homeQueue_failPosition (s : State) (p : RecordTag) (r : Record) (fence : Bool) :
    (s.failPosition p r fence).homeQueue = s.homeQueue := by
  unfold State.failPosition
  split <;> first | rfl | (simp; done) | (simp; rfl)

@[simp] theorem State.homeQueue_actTag (s : State) (k : Nat) (st : Status) (t : Tag) :
    (s.actTag k st t).homeQueue = s.homeQueue := by
  unfold State.actTag
  split <;> first | rfl | (simp; done) | (simp; rfl)

@[simp] theorem State.homeQueue_actTags (s : State) (k : Nat) (st : Status) (ts : List Tag) :
    (s.actTags k st ts).homeQueue = s.homeQueue := by
  unfold State.actTags
  apply homeQueue_foldl
  intro s a
  first | rfl | (simp; done) | (simp only []; (repeat' split) <;> first | rfl | (simp; done) | (simp; rfl))

@[simp] theorem State.homeQueue_evict (s : State) (k : Nat) (p : RecordTag) (kind : Kind)
    (tags : List Tag) :
    (s.evict k p kind tags).homeQueue = s.homeQueue := rfl

@[simp] theorem State.homeQueue_pruneLists (s : State) : s.pruneLists.homeQueue = s.homeQueue := rfl

@[simp] theorem State.homeQueue_readyOffers (s : State) : s.readyOffers.homeQueue = s.homeQueue := by
  unfold State.readyOffers
  apply homeQueue_foldl
  intro s a
  first | rfl | (simp; done) | (simp only []; (repeat' split) <;> first | rfl | (simp; done) | (simp; rfl))

@[simp] theorem State.homeQueue_walkCheck (s : State) : s.walkCheck.homeQueue = s.homeQueue := by
  unfold State.walkCheck
  (repeat' split) <;> first | rfl | (simp; done) | (simp; rfl)

@[simp] theorem State.homeQueue_drainSweep (s : State) : s.drainSweep.homeQueue = s.homeQueue := by
  unfold State.drainSweep
  split <;> first | rfl | (simp; done) | (simp; rfl)

@[simp] theorem State.homeQueue_releaseReserve (s : State) (t : Tag) :
    (s.releaseReserve t).homeQueue = s.homeQueue := by
  unfold State.releaseReserve
  (repeat' split) <;> first | rfl | (simp; done) | (simp; rfl)

@[simp] theorem State.homeQueue_merge (s : State) (t : Tag) (p : RecordTag) :
    (s.merge t p).homeQueue = s.homeQueue := by
  unfold State.merge
  simp

@[simp] theorem State.homeQueue_evictFor (s : State) (t : Tag) (k : Nat) (p q : RecordTag) :
    (s.evictFor t k p q).homeQueue = s.homeQueue := by
  unfold State.evictFor
  simp

@[simp] theorem State.homeQueue_missHeld (s : State) (t : Tag) (k : Nat) :
    (s.missHeld t k).homeQueue = s.homeQueue := by
  unfold State.missHeld
  (repeat' split) <;> first | rfl | (simp; done) | (simp; rfl)

@[simp] theorem State.homeQueue_miss (s : State) (t : Tag) (l : LineAddr) :
    (s.miss t l).homeQueue = s.homeQueue := by
  unfold State.miss
  (repeat' split) <;> first | rfl | (simp; done) | (simp; rfl)

@[simp] theorem State.homeQueue_readHit (s : State) (t : Tag) (k : Nat) (a : Word) (n : Nat) :
    (s.readHit t k a n).homeQueue = s.homeQueue := by
  unfold State.readHit
  simp

@[simp] theorem State.homeQueue_mergeLineRecord (s : State) (t : Tag) (l : LineAddr) (k : Nat) :
    (s.mergeLineRecord t l k).homeQueue = s.homeQueue := by
  unfold State.mergeLineRecord
  split <;> first | rfl | (simp; done) | (simp; rfl)

@[simp] theorem State.homeQueue_copyRead (s : State) (t : Tag) (l : LineAddr) (a : Word) (n : Nat) :
    (s.copyRead t l a n).homeQueue = s.homeQueue := by
  unfold State.copyRead
  (repeat' split) <;> first | rfl | (simp; done) | (simp; rfl)

@[simp] theorem State.homeQueue_writeHit (s : State) (t : Tag) (k : Nat) (r : Request) :
    (s.writeHit t k r).homeQueue = s.homeQueue := by
  unfold State.writeHit
  simp

@[simp] theorem State.homeQueue_copyWrite (s : State) (t : Tag) (l : LineAddr) (r : Request) :
    (s.copyWrite t l r).homeQueue = s.homeQueue := by
  unfold State.copyWrite State.withPosition
  (repeat' split) <;> first | rfl | (simp; done) | (simp; rfl)

@[simp] theorem State.homeQueue_slotless (s : State) (t : Tag) (l : LineAddr) (kind : Kind)
    (payload : Payload) :
    (s.slotless t l kind payload).homeQueue = s.homeQueue := by
  unfold State.slotless State.withPosition
  (repeat' split) <;> first | rfl | (simp; done) | (simp; rfl)

@[simp] theorem State.homeQueue_operateCopy (s : State) (t : Tag) (k : Nat) (op : PoolOp)
    (e : WindowEntry) :
    (s.operateCopy t k op e).homeQueue = s.homeQueue := by
  unfold State.operateCopy
  simp

@[simp] theorem State.homeQueue_copyOperation (s : State) (t : Tag) (l : LineAddr) (op : PoolOp)
    (e : WindowEntry) :
    (s.copyOperation t l op e).homeQueue = s.homeQueue := by
  unfold State.copyOperation
  (repeat' split) <;> first | rfl | (simp; done) | (simp; rfl)

@[simp] theorem State.homeQueue_evictLine (s : State) (t : Tag) (k : Nat) (kind : Kind) :
    (s.evictLine t k kind).homeQueue = s.homeQueue := by
  unfold State.evictLine State.withPosition
  (repeat' split) <;> first | rfl | (simp; done) | (simp; rfl)

@[simp] theorem State.homeQueue_copyMaintain (s : State) (t : Tag) (l : LineAddr) (discard : Bool) :
    (s.copyMaintain t l discard).homeQueue = s.homeQueue := by
  unfold State.copyMaintain
  simp only []
  (repeat' split) <;> first | rfl | (simp; done) | (simp; rfl)

@[simp] theorem State.homeQueue_actBank (s : State) (t : Tag) (r : Request) (res : Resolved) :
    (s.actBank t r res).homeQueue = s.homeQueue := by
  unfold State.actBank
  split <;> first | rfl | (simp; done) | (simp; rfl)

@[simp] theorem State.homeQueue_makeRecall (s : State) (p : RecordTag) (kind : Kind) (l : LineAddr)
    (index : Nat) (payload : Payload) :
    (s.makeRecall p kind l index payload).homeQueue = s.homeQueue := by
  unfold State.makeRecall
  (repeat' split) <;> first | rfl | (simp; done) | (simp; rfl)

@[simp] theorem State.homeQueue_handlePrivate (s : State) (t : Tag) (r : Request) (res : Resolved) :
    (s.handlePrivate t r res).homeQueue = s.homeQueue := by
  unfold State.handlePrivate
  split <;> first | rfl | (simp; done) | (simp; rfl)

@[simp] theorem State.homeQueue_turnWalk (s : State) (p : RecordTag) :
    (s.turnWalk p).homeQueue = s.homeQueue := by
  unfold State.turnWalk
  (repeat' split) <;> first | rfl | (simp; done) | (simp; rfl)

@[simp] theorem State.homeQueue_grantDrain (s : State) (p : RecordTag) :
    (s.grantDrain p).homeQueue = s.homeQueue := by
  unfold State.grantDrain
  (repeat' split) <;> first | rfl | (simp; done) | (simp; rfl)

@[simp] theorem State.homeQueue_doJoin (s : State) (t : Tag) :
    (s.doJoin t).homeQueue = s.homeQueue := by
  unfold State.doJoin
  (repeat' split) <;> first | rfl | (simp; done) | (simp; rfl)

@[simp] theorem State.homeQueue_doAckFault (s : State) (t : Tag) :
    (s.doAckFault t).homeQueue = s.homeQueue := by
  unfold State.doAckFault
  split <;> first | rfl | (simp; done) | (simp; rfl)

@[simp] theorem State.homeQueue_doAckMembership (s : State) (t : Tag) :
    (s.doAckMembership t).homeQueue = s.homeQueue := by
  unfold State.doAckMembership
  split <;> first | rfl | (simp; done) | (simp; rfl)

@[simp] theorem State.homeQueue_reserveSupply (s : State) (pub : Publication) :
    (s.reserveSupply pub).homeQueue = s.homeQueue := by
  unfold State.reserveSupply
  split <;> first | rfl | (simp; done) | (simp; rfl)

@[simp] theorem State.homeQueue_startOperation (s : State) (h : Fin 8) :
    (s.startOperation h).homeQueue = s.homeQueue := by
  unfold State.startOperation
  (repeat' split) <;> first | rfl | (simp; done) | (simp; rfl)

@[simp] theorem State.homeQueue_supplySlot (s : State) (pub : Publication) (v : Slot) :
    (s.supplySlot pub v).homeQueue = s.homeQueue := by
  unfold State.supplySlot
  split <;> first | rfl | (simp; done) | (simp; rfl)

@[simp] theorem State.homeQueue_convertClaim (s : State) (k : Nat) (l : LineAddr) :
    (s.convertClaim k l).homeQueue = s.homeQueue := by
  unfold State.convertClaim
  simp only []
  split <;> first | rfl | (simp; done) | (simp; rfl)

@[simp] theorem State.homeQueue_allocateLoan (s : State) (k : Kind) (index : Nat) (l : LineAddr) :
    (s.allocateLoan k index l).homeQueue = s.homeQueue := by
  unfold State.allocateLoan
  (repeat' split) <;> first | rfl | (simp; done) | (simp; rfl)

@[simp] theorem State.homeQueue_loanTally (s : State) (pub : Publication) (rd : Reading) (index : Nat) :
    (s.loanTally pub rd index).homeQueue = s.homeQueue := by
  unfold State.loanTally
  simp

@[simp] theorem State.homeQueue_supplyMemory (s : State) (pub : Publication) (index : Nat)
    (first : BitVec 4) (count : BitVec 5) :
    (s.supplyMemory pub index first count).homeQueue = s.homeQueue := by
  unfold State.supplyMemory
  split <;> first | rfl | (simp; done) | (simp; rfl)

@[simp] theorem State.homeQueue_recallUnheld (s : State) (index : Nat) (holder : Option Station) :
    (s.recallUnheld index holder).homeQueue = s.homeQueue := by
  unfold State.recallUnheld
  split <;> first | rfl | (simp; done) | (simp; rfl)

@[simp] theorem State.homeQueue_awaitData (s : State) (p : RecordTag) (supplier : Station) :
    (s.awaitData p supplier).homeQueue = s.homeQueue := by
  unfold State.awaitData
  simp

@[simp] theorem State.homeQueue_ownClaim (s : State) (p : RecordTag) (r : Record) :
    (s.ownClaim p r).homeQueue = s.homeQueue := by
  unfold State.ownClaim
  simp only []
  (repeat' (first | split | (refine (homeQueue_foldl _ (fun s a => ?_) _ _).trans ?_))) <;> first | rfl | (simp; done) | (simp; rfl)

@[simp] theorem State.homeQueue_ownWriteThrough (s : State) (p : RecordTag) (r : Record)
    (keeps : Bool) :
    (s.ownWriteThrough p r keeps).homeQueue = s.homeQueue := by
  unfold State.ownWriteThrough
  simp only []
  (repeat' (first | split | (refine (homeQueue_foldl _ (fun s a => ?_) _ _).trans ?_))) <;> first | rfl | (simp; done) | (simp; rfl)

@[simp] theorem State.homeQueue_ownOperate (s : State) (p : RecordTag) (r : Record) (home : Station) :
    (s.ownOperate p r home).homeQueue = s.homeQueue := by
  unfold State.ownOperate
  (repeat' split) <;> first | rfl | (simp; done) | (simp; rfl)

@[simp] theorem State.homeQueue_freeUsed (s : State) (d : Data) :
    (s.freeUsed d).homeQueue = s.homeQueue := by
  unfold State.freeUsed
  split <;> first | rfl | (simp; done) | (simp; rfl)

@[simp] theorem State.homeQueue_closeWith (s : State) (p : RecordTag) (r : Record) (st : Status)
    (ws : List Word) :
    (s.closeWith p r st ws).homeQueue = s.homeQueue := by
  unfold State.closeWith
  apply homeQueue_foldl
  intro s a
  first | rfl | (simp; done) | (simp only []; (repeat' split) <;> first | rfl | (simp; done) | (simp; rfl))

@[simp] theorem State.homeQueue_takeDirect (s : State) (p : RecordTag) (r : Record) (d : Data) :
    (s.takeDirect p r d).homeQueue = s.homeQueue := by
  unfold State.takeDirect
  simp

@[simp] theorem State.homeQueue_takeResult (s : State) (p : RecordTag) (r : Record) (d : Data) :
    (s.takeResult p r d).homeQueue = s.homeQueue := by
  unfold State.takeResult
  simp

@[simp] theorem State.homeQueue_writeBack (s : State) (pub : Publication) (d : Data) :
    (s.writeBack pub d).homeQueue = s.homeQueue := by
  unfold State.writeBack
  (repeat' split) <;> first | rfl | (simp; done) | (simp; rfl)

@[simp] theorem State.homeQueue_settleOwed (s : State) (pub : Publication) :
    (s.settleOwed pub).homeQueue = s.homeQueue := by
  unfold State.settleOwed
  (repeat' split) <;> first | rfl | (simp; done) | (simp; rfl)

@[simp] theorem State.homeQueue_releaseSource (s : State) (own : Option Source) :
    (s.releaseSource own).homeQueue = s.homeQueue := by
  unfold State.releaseSource
  split <;> first | rfl | (simp; done) | (simp; rfl)

@[simp] theorem State.homeQueue_correctLoan (s : State) (l : LineAddr) (kind : Kind) (r : Station) :
    (s.correctLoan l kind r).homeQueue = s.homeQueue := by
  unfold State.correctLoan
  split <;> first | rfl | (simp; done) | (simp; rfl)

@[simp] theorem State.homeQueue_drainEnd (s : State) : s.drainEnd.homeQueue = s.homeQueue := by
  unfold State.drainEnd
  (repeat' split) <;> first | rfl | (simp; done) | (simp; rfl)

/-! ### port -/

theorem port_foldl {α : Type} (f : State → α → State) (h : ∀ s a, (f s a).port = s.port)
    (l : List α) : ∀ s : State, (l.foldl f s).port = s.port := by
  induction l with
  | nil => intro s; rfl
  | cons a l ih => intro s; exact (ih (f s a)).trans (h s a)

@[simp] theorem State.port_refreshSlot (s : State) (k : Nat) : (s.refreshSlot k).port = s.port := by
  unfold State.refreshSlot
  apply port_foldl
  intro s a
  first | rfl | (simp; done) | (simp only []; (repeat' split) <;> first | rfl | (simp; done) | (simp; rfl))

@[simp] theorem State.port_updateLoan (s : State) (index : Nat) (f : LoanEntry → LoanEntry) :
    (s.updateLoan index f).port = s.port := by
  unfold State.updateLoan
  (repeat' split) <;> first | rfl | (simp; done) | (simp; rfl)

@[simp] theorem State.port_refreshLoanWay (s : State) (k : Nat) :
    (s.refreshLoanWay k).port = s.port := by
  unfold State.refreshLoanWay
  apply port_foldl
  intro s a
  first | rfl | (simp; done) | (simp only []; (repeat' split) <;> first | rfl | (simp; done) | (simp; rfl))

@[simp] theorem State.port_refreshLoan (s : State) (index : Nat) :
    (s.refreshLoan index).port = s.port := by
  unfold State.refreshLoan
  split <;> first | rfl | (simp; done) | (simp; rfl)

@[simp] theorem State.port_updateRecord (s : State) (p : RecordTag) (f : Record → Record) :
    (s.updateRecord p f).port = s.port := by
  unfold State.updateRecord
  split <;> first | rfl | (simp; done) | (simp; rfl)

@[simp] theorem State.port_releaseSupply (s : State) : s.releaseSupply.port = s.port := by
  unfold State.releaseSupply
  split <;> first | rfl | (simp; done) | (simp; rfl)

@[simp] theorem State.port_freeIdle (s : State) (index : Nat) : (s.freeIdle index).port = s.port := by
  unfold State.freeIdle
  (repeat' split) <;> first | rfl | (simp; done) | (simp; rfl)

@[simp] theorem State.port_freeIdleLine (s : State) (l : LineAddr) :
    (s.freeIdleLine l).port = s.port := by
  unfold State.freeIdleLine
  split <;> first | rfl | (simp; done) | (simp; rfl)

@[simp] theorem State.port_freeHomeEntry (s : State) (e : Fin 8) :
    (s.freeHomeEntry e).port = s.port := by
  unfold State.freeHomeEntry
  simp only []
  split <;> first | rfl | (simp; done) | (simp; rfl)

@[simp] theorem State.port_issue (s : State) (d : Due) : (s.issue d).port = s.port := by
  unfold State.issue
  (repeat' split) <;> first | rfl | (simp; done) | (simp; rfl)

@[simp] theorem State.port_issueHeld (s : State) : s.issueHeld.port = s.port := by
  unfold State.issueHeld
  apply port_foldl
  intro s a
  first | rfl | (simp; done) | (simp only []; (repeat' split) <;> first | rfl | (simp; done) | (simp; rfl))

@[simp] theorem State.port_dropAccesses (s : State) :
    s.dropAccesses.port = s.port := by
  unfold State.dropAccesses
  simp

@[simp] theorem State.port_recallClosed (s : State) (l : LineAddr) (lost : Bool) :
    (s.recallClosed l lost).port = s.port := by
  unfold State.recallClosed
  split <;> first | rfl | (simp; done) | (simp; rfl)

@[simp] theorem State.port_failPosition (s : State) (p : RecordTag) (r : Record) (fence : Bool) :
    (s.failPosition p r fence).port = s.port := by
  unfold State.failPosition
  split <;> first | rfl | (simp; done) | (simp; rfl)

@[simp] theorem State.port_evict (s : State) (k : Nat) (p : RecordTag) (kind : Kind) (tags : List Tag) :
    (s.evict k p kind tags).port = s.port := rfl

@[simp] theorem State.port_pruneLists (s : State) : s.pruneLists.port = s.port := rfl

@[simp] theorem State.port_readyOffers (s : State) : s.readyOffers.port = s.port := by
  unfold State.readyOffers
  apply port_foldl
  intro s a
  first | rfl | (simp; done) | (simp only []; (repeat' split) <;> first | rfl | (simp; done) | (simp; rfl))

@[simp] theorem State.port_drainSweep (s : State) : s.drainSweep.port = s.port := by
  unfold State.drainSweep
  split <;> first | rfl | (simp; done) | (simp; rfl)

@[simp] theorem State.port_releaseReserve (s : State) (t : Tag) :
    (s.releaseReserve t).port = s.port := by
  unfold State.releaseReserve
  (repeat' split) <;> first | rfl | (simp; done) | (simp; rfl)

@[simp] theorem State.port_actBank (s : State) (t : Tag) (r : Request) (res : Resolved) :
    (s.actBank t r res).port = s.port := by
  unfold State.actBank
  split <;> first | rfl | (simp; done) | (simp; rfl)

@[simp] theorem State.port_makeRecall (s : State) (p : RecordTag) (kind : Kind) (l : LineAddr)
    (index : Nat) (payload : Payload) :
    (s.makeRecall p kind l index payload).port = s.port := by
  unfold State.makeRecall
  (repeat' split) <;> first | rfl | (simp; done) | (simp; rfl)

@[simp] theorem State.port_turnWalk (s : State) (p : RecordTag) : (s.turnWalk p).port = s.port := by
  unfold State.turnWalk
  (repeat' split) <;> first | rfl | (simp; done) | (simp; rfl)

@[simp] theorem State.port_grantDrain (s : State) (p : RecordTag) :
    (s.grantDrain p).port = s.port := by
  unfold State.grantDrain
  (repeat' split) <;> first | rfl | (simp; done) | (simp; rfl)

@[simp] theorem State.port_reserveSupply (s : State) (pub : Publication) :
    (s.reserveSupply pub).port = s.port := by
  unfold State.reserveSupply
  split <;> first | rfl | (simp; done) | (simp; rfl)

@[simp] theorem State.port_reserveHome (s : State) (pub : Publication) :
    (s.reserveHome pub).port = s.port := by
  unfold State.reserveHome
  simp only []
  (repeat' split) <;> first | rfl | (simp; done) | (simp; rfl)

@[simp] theorem State.port_startOperation (s : State) (h : Fin 8) :
    (s.startOperation h).port = s.port := by
  unfold State.startOperation
  (repeat' split) <;> first | rfl | (simp; done) | (simp; rfl)

@[simp] theorem State.port_departHome (s : State) (d : StationSet) (h : Fin 8) :
    (s.departHome d h).port = s.port := by
  unfold State.departHome
  (repeat' split) <;> first | rfl | (simp; done) | (simp; rfl)

@[simp] theorem State.port_supplySlot (s : State) (pub : Publication) (v : Slot) :
    (s.supplySlot pub v).port = s.port := by
  unfold State.supplySlot
  split <;> first | rfl | (simp; done) | (simp; rfl)

@[simp] theorem State.port_convertClaim (s : State) (k : Nat) (l : LineAddr) :
    (s.convertClaim k l).port = s.port := by
  unfold State.convertClaim
  simp only []
  split <;> first | rfl | (simp; done) | (simp; rfl)

@[simp] theorem State.port_releaseHome (s : State) : s.releaseHome.port = s.port := by
  unfold State.releaseHome
  simp only []
  split <;> first | rfl | (simp; done) | (simp; rfl)

@[simp] theorem State.port_allocateLoan (s : State) (k : Kind) (index : Nat) (l : LineAddr) :
    (s.allocateLoan k index l).port = s.port := by
  unfold State.allocateLoan
  (repeat' split) <;> first | rfl | (simp; done) | (simp; rfl)

@[simp] theorem State.port_loanTally (s : State) (pub : Publication) (rd : Reading) (index : Nat) :
    (s.loanTally pub rd index).port = s.port := by
  unfold State.loanTally
  simp

@[simp] theorem State.port_supplyMemory (s : State) (pub : Publication) (index : Nat)
    (first : BitVec 4) (count : BitVec 5) :
    (s.supplyMemory pub index first count).port = s.port := by
  unfold State.supplyMemory
  split <;> first | rfl | (simp; done) | (simp; rfl)

@[simp] theorem State.port_confirmOperation (s : State) (pub : Publication) (op : Operation)
    (holder : Option Station) (index : Nat) :
    (s.confirmOperation pub op holder index).port = s.port := by
  unfold State.confirmOperation
  (repeat' split) <;> first | rfl | (simp; done) | (simp; rfl)

@[simp] theorem State.port_recallUnheld (s : State) (index : Nat) (holder : Option Station) :
    (s.recallUnheld index holder).port = s.port := by
  unfold State.recallUnheld
  split <;> first | rfl | (simp; done) | (simp; rfl)

@[simp] theorem State.port_homeWork (s : State) (pub : Publication) (rd : Reading) (index : Nat) :
    (s.homeWork pub rd index).port = s.port := by
  unfold State.homeWork
  (repeat' split) <;> first | rfl | (simp; done) | (simp; rfl)

@[simp] theorem State.port_awaitData (s : State) (p : RecordTag) (supplier : Station) :
    (s.awaitData p supplier).port = s.port := by
  unfold State.awaitData
  simp

@[simp] theorem State.port_ownOperate (s : State) (p : RecordTag) (r : Record) (home : Station) :
    (s.ownOperate p r home).port = s.port := by
  unfold State.ownOperate
  (repeat' split) <;> first | rfl | (simp; done) | (simp; rfl)

@[simp] theorem State.port_freeUsed (s : State) (d : Data) : (s.freeUsed d).port = s.port := by
  unfold State.freeUsed
  split <;> first | rfl | (simp; done) | (simp; rfl)

@[simp] theorem State.port_takeHolderData (s : State) (h : Fin 8) (d : Data) :
    (s.takeHolderData h d).port = s.port := by
  unfold State.takeHolderData
  simp only []
  (repeat' split) <;> first | rfl | (simp; done) | (simp; rfl)

@[simp] theorem State.port_writeBack (s : State) (pub : Publication) (d : Data) :
    (s.writeBack pub d).port = s.port := by
  unfold State.writeBack
  (repeat' split) <;> first | rfl | (simp; done) | (simp; rfl)

@[simp] theorem State.port_settleOwed (s : State) (pub : Publication) :
    (s.settleOwed pub).port = s.port := by
  unfold State.settleOwed
  (repeat' split) <;> first | rfl | (simp; done) | (simp; rfl)

@[simp] theorem State.port_releaseSource (s : State) (own : Option Source) :
    (s.releaseSource own).port = s.port := by
  unfold State.releaseSource
  split <;> first | rfl | (simp; done) | (simp; rfl)

@[simp] theorem State.port_correctLoan (s : State) (l : LineAddr) (kind : Kind) (r : Station) :
    (s.correctLoan l kind r).port = s.port := by
  unfold State.correctLoan
  split <;> first | rfl | (simp; done) | (simp; rfl)

@[simp] theorem State.port_deliverResult (s : State) (h : Fin 8) (o : OpResult) :
    (s.deliverResult h o).port = s.port := by
  unfold State.deliverResult
  (repeat' split) <;> first | rfl | (simp; done) | (simp; rfl)

@[simp] theorem State.port_drainEnd (s : State) : s.drainEnd.port = s.port := by
  unfold State.drainEnd
  (repeat' split) <;> first | rfl | (simp; done) | (simp; rfl)

/-! ### copy -/

theorem copy_foldl {α : Type} (f : State → α → State) (h : ∀ s a, (f s a).copy = s.copy)
    (l : List α) : ∀ s : State, (l.foldl f s).copy = s.copy := by
  induction l with
  | nil => intro s; rfl
  | cons a l ih => intro s; exact (ih (f s a)).trans (h s a)

@[simp] theorem State.copy_updateLoan (s : State) (index : Nat) (f : LoanEntry → LoanEntry) :
    (s.updateLoan index f).copy = s.copy := by
  unfold State.updateLoan
  (repeat' split) <;> first | rfl | (simp; done) | (simp; rfl)

@[simp] theorem State.copy_refreshLoanWay (s : State) (k : Nat) :
    (s.refreshLoanWay k).copy = s.copy := by
  unfold State.refreshLoanWay
  apply copy_foldl
  intro s a
  first | rfl | (simp; done) | (simp only []; (repeat' split) <;> first | rfl | (simp; done) | (simp; rfl))

@[simp] theorem State.copy_refreshLoan (s : State) (index : Nat) :
    (s.refreshLoan index).copy = s.copy := by
  unfold State.refreshLoan
  split <;> first | rfl | (simp; done) | (simp; rfl)

@[simp] theorem State.copy_setProgress (s : State) (t : Tag) (p : Progress) :
    (s.setProgress t p).copy = s.copy := by
  unfold State.setProgress
  split <;> first | rfl | (simp; done) | (simp; rfl)

@[simp] theorem State.copy_complete (s : State) (t : Tag) (st : Status) (ws : List Word) :
    (s.complete t st ws).copy = s.copy := by
  unfold State.complete
  split <;> first | rfl | (simp; done) | (simp; rfl)

@[simp] theorem State.copy_completeAll (s : State) (ts : List Tag) (st : Status) :
    (s.completeAll ts st).copy = s.copy := by
  unfold State.completeAll
  apply copy_foldl
  intro s a
  first | rfl | (simp; done) | (simp only []; (repeat' split) <;> first | rfl | (simp; done) | (simp; rfl))

@[simp] theorem State.copy_streamFlushFrom (ts : List Tag) :
    ∀ s : State, (streamFlushFrom ts s).copy = s.copy := by
  induction ts with
  | nil => intro s; rfl
  | cons t ts ih =>
    intro s
    unfold streamFlushFrom
    split
    · rw [ih]; simp
    · rfl
    · exact ih s

@[simp] theorem State.copy_streamFlush (s : State) : s.streamFlush.copy = s.copy := by
  unfold State.streamFlush
  simp

@[simp] theorem State.copy_decided (s : State) (t : Tag) (st : Status) (ws : List Word) :
    (s.decided t st ws).copy = s.copy := by
  unfold State.decided
  simp

@[simp] theorem State.copy_haltPort (s : State) : s.haltPort.copy = s.copy := by
  unfold State.haltPort
  apply copy_foldl
  intro s a
  first | rfl | (simp; done) | (simp only []; (repeat' split) <;> first | rfl | (simp; done) | (simp; rfl))

@[simp] theorem State.copy_updateRecord (s : State) (p : RecordTag) (f : Record → Record) :
    (s.updateRecord p f).copy = s.copy := by
  unfold State.updateRecord
  split <;> first | rfl | (simp; done) | (simp; rfl)

@[simp] theorem State.copy_releaseSupply (s : State) : s.releaseSupply.copy = s.copy := by
  unfold State.releaseSupply
  split <;> first | rfl | (simp; done) | (simp; rfl)

@[simp] theorem State.copy_freeIdle (s : State) (index : Nat) : (s.freeIdle index).copy = s.copy := by
  unfold State.freeIdle
  (repeat' split) <;> first | rfl | (simp; done) | (simp; rfl)

@[simp] theorem State.copy_freeIdleLine (s : State) (l : LineAddr) :
    (s.freeIdleLine l).copy = s.copy := by
  unfold State.freeIdleLine
  split <;> first | rfl | (simp; done) | (simp; rfl)

@[simp] theorem State.copy_freeHomeEntry (s : State) (e : Fin 8) :
    (s.freeHomeEntry e).copy = s.copy := by
  unfold State.freeHomeEntry
  simp only []
  split <;> first | rfl | (simp; done) | (simp; rfl)

@[simp] theorem State.copy_completeHome (s : State) (t : Tag) (st : Status) (ws : List Word) :
    (s.completeHome t st ws).copy = s.copy := by
  unfold State.completeHome
  split <;> first | rfl | (simp; done) | (simp; rfl)

@[simp] theorem State.copy_issue (s : State) (d : Due) : (s.issue d).copy = s.copy := by
  unfold State.issue
  (repeat' split) <;> first | rfl | (simp; done) | (simp; rfl)

@[simp] theorem State.copy_issueHeld (s : State) : s.issueHeld.copy = s.copy := by
  unfold State.issueHeld
  apply copy_foldl
  intro s a
  first | rfl | (simp; done) | (simp only []; (repeat' split) <;> first | rfl | (simp; done) | (simp; rfl))

@[simp] theorem State.copy_dropAccesses (s : State) :
    s.dropAccesses.copy = s.copy := by
  unfold State.dropAccesses
  simp

@[simp] theorem State.copy_recallClosed (s : State) (l : LineAddr) (lost : Bool) :
    (s.recallClosed l lost).copy = s.copy := by
  unfold State.recallClosed
  split <;> first | rfl | (simp; done) | (simp; rfl)

@[simp] theorem State.copy_recallContended (s : State) (l : LineAddr) :
    (s.recallContended l).copy = s.copy := by
  unfold State.recallContended
  split <;> first | rfl | (simp; done) | (simp; rfl)

@[simp] theorem State.copy_failPosition (s : State) (p : RecordTag) (r : Record) (fence : Bool) :
    (s.failPosition p r fence).copy = s.copy := by
  unfold State.failPosition
  split <;> first | rfl | (simp; done) | (simp; rfl)

@[simp] theorem State.copy_readyOffers (s : State) : s.readyOffers.copy = s.copy := by
  unfold State.readyOffers
  apply copy_foldl
  intro s a
  first | rfl | (simp; done) | (simp only []; (repeat' split) <;> first | rfl | (simp; done) | (simp; rfl))

@[simp] theorem State.copy_releaseReserve (s : State) (t : Tag) :
    (s.releaseReserve t).copy = s.copy := by
  unfold State.releaseReserve
  (repeat' split) <;> first | rfl | (simp; done) | (simp; rfl)

@[simp] theorem State.copy_merge (s : State) (t : Tag) (p : RecordTag) :
    (s.merge t p).copy = s.copy := by
  unfold State.merge
  simp

@[simp] theorem State.copy_slotless (s : State) (t : Tag) (l : LineAddr) (kind : Kind)
    (payload : Payload) :
    (s.slotless t l kind payload).copy = s.copy := by
  unfold State.slotless State.withPosition
  (repeat' split) <;> first | rfl | (simp; done) | (simp; rfl)

@[simp] theorem State.copy_actBank (s : State) (t : Tag) (r : Request) (res : Resolved) :
    (s.actBank t r res).copy = s.copy := by
  unfold State.actBank
  split <;> first | rfl | (simp; done) | (simp; rfl)

@[simp] theorem State.copy_actHome (s : State) (t : Tag) (r : Request) (res : Resolved) :
    (s.actHome t r res).copy = s.copy := by
  unfold State.actHome
  (repeat' split) <;> first | rfl | (simp; done) | (simp; rfl)

@[simp] theorem State.copy_makeRecall (s : State) (p : RecordTag) (kind : Kind) (l : LineAddr)
    (index : Nat) (payload : Payload) :
    (s.makeRecall p kind l index payload).copy = s.copy := by
  unfold State.makeRecall
  (repeat' split) <;> first | rfl | (simp; done) | (simp; rfl)

@[simp] theorem State.copy_awaitRecall (s : State) (t : Tag) (e : Fin 8) (kind : Kind)
    (res : Resolved) :
    (s.awaitRecall t e kind res).copy = s.copy := by
  unfold State.awaitRecall
  simp only []
  (repeat' split) <;> first | rfl | (simp; done) | (simp; rfl)

@[simp] theorem State.copy_handleHome (s : State) (t : Tag) (r : Request) (res : Resolved) :
    (s.handleHome t r res).copy = s.copy := by
  unfold State.handleHome
  simp only []
  (repeat' split) <;> first | rfl | (simp; done) | (simp; rfl)

@[simp] theorem State.copy_handlePrivate (s : State) (t : Tag) (r : Request) (res : Resolved) :
    (s.handlePrivate t r res).copy = s.copy := by
  unfold State.handlePrivate
  split <;> first | rfl | (simp; done) | (simp; rfl)

@[simp] theorem State.copy_handleQueued (s : State) (t : Tag) : (s.handleQueued t).copy = s.copy := by
  unfold State.handleQueued
  (repeat' split) <;> first | rfl | (simp; done) | (simp; rfl)

@[simp] theorem State.copy_doJoin (s : State) (t : Tag) : (s.doJoin t).copy = s.copy := by
  unfold State.doJoin
  (repeat' split) <;> first | rfl | (simp; done) | (simp; rfl)

@[simp] theorem State.copy_doAckFault (s : State) (t : Tag) : (s.doAckFault t).copy = s.copy := by
  unfold State.doAckFault
  split <;> first | rfl | (simp; done) | (simp; rfl)

@[simp] theorem State.copy_doAckMembership (s : State) (t : Tag) :
    (s.doAckMembership t).copy = s.copy := by
  unfold State.doAckMembership
  split <;> first | rfl | (simp; done) | (simp; rfl)

@[simp] theorem State.copy_reserveSupply (s : State) (pub : Publication) :
    (s.reserveSupply pub).copy = s.copy := by
  unfold State.reserveSupply
  split <;> first | rfl | (simp; done) | (simp; rfl)

@[simp] theorem State.copy_reserveHome (s : State) (pub : Publication) :
    (s.reserveHome pub).copy = s.copy := by
  unfold State.reserveHome
  simp only []
  (repeat' split) <;> first | rfl | (simp; done) | (simp; rfl)

@[simp] theorem State.copy_startOperation (s : State) (h : Fin 8) :
    (s.startOperation h).copy = s.copy := by
  unfold State.startOperation
  (repeat' split) <;> first | rfl | (simp; done) | (simp; rfl)

@[simp] theorem State.copy_departHome (s : State) (d : StationSet) (h : Fin 8) :
    (s.departHome d h).copy = s.copy := by
  unfold State.departHome
  (repeat' split) <;> first | rfl | (simp; done) | (simp; rfl)

@[simp] theorem State.copy_supplySlot (s : State) (pub : Publication) (v : Slot) :
    (s.supplySlot pub v).copy = s.copy := by
  unfold State.supplySlot
  split <;> first | rfl | (simp; done) | (simp; rfl)

@[simp] theorem State.copy_releaseHome (s : State) : s.releaseHome.copy = s.copy := by
  unfold State.releaseHome
  simp only []
  split <;> first | rfl | (simp; done) | (simp; rfl)

@[simp] theorem State.copy_allocateLoan (s : State) (k : Kind) (index : Nat) (l : LineAddr) :
    (s.allocateLoan k index l).copy = s.copy := by
  unfold State.allocateLoan
  (repeat' split) <;> first | rfl | (simp; done) | (simp; rfl)

@[simp] theorem State.copy_loanTally (s : State) (pub : Publication) (rd : Reading) (index : Nat) :
    (s.loanTally pub rd index).copy = s.copy := by
  unfold State.loanTally
  simp

@[simp] theorem State.copy_supplyMemory (s : State) (pub : Publication) (index : Nat)
    (first : BitVec 4) (count : BitVec 5) :
    (s.supplyMemory pub index first count).copy = s.copy := by
  unfold State.supplyMemory
  split <;> first | rfl | (simp; done) | (simp; rfl)

@[simp] theorem State.copy_confirmOperation (s : State) (pub : Publication) (op : Operation)
    (holder : Option Station) (index : Nat) :
    (s.confirmOperation pub op holder index).copy = s.copy := by
  unfold State.confirmOperation
  (repeat' split) <;> first | rfl | (simp; done) | (simp; rfl)

@[simp] theorem State.copy_recallUnheld (s : State) (index : Nat) (holder : Option Station) :
    (s.recallUnheld index holder).copy = s.copy := by
  unfold State.recallUnheld
  split <;> first | rfl | (simp; done) | (simp; rfl)

@[simp] theorem State.copy_homeWork (s : State) (pub : Publication) (rd : Reading) (index : Nat) :
    (s.homeWork pub rd index).copy = s.copy := by
  unfold State.homeWork
  (repeat' split) <;> first | rfl | (simp; done) | (simp; rfl)

@[simp] theorem State.copy_awaitData (s : State) (p : RecordTag) (supplier : Station) :
    (s.awaitData p supplier).copy = s.copy := by
  unfold State.awaitData
  simp

@[simp] theorem State.copy_freeUsed (s : State) (d : Data) : (s.freeUsed d).copy = s.copy := by
  unfold State.freeUsed
  split <;> first | rfl | (simp; done) | (simp; rfl)

@[simp] theorem State.copy_closeWith (s : State) (p : RecordTag) (r : Record) (st : Status)
    (ws : List Word) :
    (s.closeWith p r st ws).copy = s.copy := by
  unfold State.closeWith
  apply copy_foldl
  intro s a
  first | rfl | (simp; done) | (simp only []; (repeat' split) <;> first | rfl | (simp; done) | (simp; rfl))

@[simp] theorem State.copy_takeDirect (s : State) (p : RecordTag) (r : Record) (d : Data) :
    (s.takeDirect p r d).copy = s.copy := by
  unfold State.takeDirect
  simp

@[simp] theorem State.copy_takeResult (s : State) (p : RecordTag) (r : Record) (d : Data) :
    (s.takeResult p r d).copy = s.copy := by
  unfold State.takeResult
  simp

@[simp] theorem State.copy_takeHolderData (s : State) (h : Fin 8) (d : Data) :
    (s.takeHolderData h d).copy = s.copy := by
  unfold State.takeHolderData
  simp only []
  (repeat' split) <;> first | rfl | (simp; done) | (simp; rfl)

@[simp] theorem State.copy_writeBack (s : State) (pub : Publication) (d : Data) :
    (s.writeBack pub d).copy = s.copy := by
  unfold State.writeBack
  (repeat' split) <;> first | rfl | (simp; done) | (simp; rfl)

@[simp] theorem State.copy_settleOwed (s : State) (pub : Publication) :
    (s.settleOwed pub).copy = s.copy := by
  unfold State.settleOwed
  (repeat' split) <;> first | rfl | (simp; done) | (simp; rfl)

@[simp] theorem State.copy_releaseSource (s : State) (own : Option Source) :
    (s.releaseSource own).copy = s.copy := by
  unfold State.releaseSource
  split <;> first | rfl | (simp; done) | (simp; rfl)

@[simp] theorem State.copy_correctLoan (s : State) (l : LineAddr) (kind : Kind) (r : Station) :
    (s.correctLoan l kind r).copy = s.copy := by
  unfold State.correctLoan
  split <;> first | rfl | (simp; done) | (simp; rfl)

@[simp] theorem State.copy_memoryWriteEnd (s : State) : s.memoryWriteEnd.copy = s.copy := by
  unfold State.memoryWriteEnd
  split <;> first | rfl | (simp; done) | (simp; rfl)

@[simp] theorem State.copy_deliverResult (s : State) (h : Fin 8) (o : OpResult) :
    (s.deliverResult h o).copy = s.copy := by
  unfold State.deliverResult
  (repeat' split) <;> first | rfl | (simp; done) | (simp; rfl)

@[simp] theorem State.copy_deliver (s : State) (r : Run) (o : OpResult) :
    (s.deliver r o).copy = s.copy := by
  unfold State.deliver
  split <;> first | rfl | (simp; done) | (simp; rfl)

@[simp] theorem State.copy_drainEnd (s : State) : s.drainEnd.copy = s.copy := by
  unfold State.drainEnd
  (repeat' split) <;> first | rfl | (simp; done) | (simp; rfl)

/-! ### loans -/

theorem loans_foldl {α : Type} (f : State → α → State) (h : ∀ s a, (f s a).loans = s.loans)
    (l : List α) : ∀ s : State, (l.foldl f s).loans = s.loans := by
  induction l with
  | nil => intro s; rfl
  | cons a l ih => intro s; exact (ih (f s a)).trans (h s a)

@[simp] theorem State.loans_refreshSlot (s : State) (k : Nat) : (s.refreshSlot k).loans = s.loans := by
  unfold State.refreshSlot
  apply loans_foldl
  intro s a
  first | rfl | (simp; done) | (simp only []; (repeat' split) <;> first | rfl | (simp; done) | (simp; rfl))

@[simp] theorem State.loans_setProgress (s : State) (t : Tag) (p : Progress) :
    (s.setProgress t p).loans = s.loans := by
  unfold State.setProgress
  split <;> first | rfl | (simp; done) | (simp; rfl)

@[simp] theorem State.loans_complete (s : State) (t : Tag) (st : Status) (ws : List Word) :
    (s.complete t st ws).loans = s.loans := by
  unfold State.complete
  split <;> first | rfl | (simp; done) | (simp; rfl)

@[simp] theorem State.loans_completeAll (s : State) (ts : List Tag) (st : Status) :
    (s.completeAll ts st).loans = s.loans := by
  unfold State.completeAll
  apply loans_foldl
  intro s a
  first | rfl | (simp; done) | (simp only []; (repeat' split) <;> first | rfl | (simp; done) | (simp; rfl))

@[simp] theorem State.loans_streamFlushFrom (ts : List Tag) :
    ∀ s : State, (streamFlushFrom ts s).loans = s.loans := by
  induction ts with
  | nil => intro s; rfl
  | cons t ts ih =>
    intro s
    unfold streamFlushFrom
    split
    · rw [ih]; simp
    · rfl
    · exact ih s

@[simp] theorem State.loans_streamFlush (s : State) : s.streamFlush.loans = s.loans := by
  unfold State.streamFlush
  simp

@[simp] theorem State.loans_decided (s : State) (t : Tag) (st : Status) (ws : List Word) :
    (s.decided t st ws).loans = s.loans := by
  unfold State.decided
  simp

@[simp] theorem State.loans_haltPort (s : State) : s.haltPort.loans = s.loans := by
  unfold State.haltPort
  apply loans_foldl
  intro s a
  first | rfl | (simp; done) | (simp only []; (repeat' split) <;> first | rfl | (simp; done) | (simp; rfl))

@[simp] theorem State.loans_updateRecord (s : State) (p : RecordTag) (f : Record → Record) :
    (s.updateRecord p f).loans = s.loans := by
  unfold State.updateRecord
  split <;> first | rfl | (simp; done) | (simp; rfl)

@[simp] theorem State.loans_releaseSupply (s : State) : s.releaseSupply.loans = s.loans := by
  unfold State.releaseSupply
  split <;> first | rfl | (simp; done) | (simp; rfl)

@[simp] theorem State.loans_issue (s : State) (d : Due) : (s.issue d).loans = s.loans := by
  unfold State.issue
  (repeat' split) <;> first | rfl | (simp; done) | (simp; rfl)

@[simp] theorem State.loans_issueHeld (s : State) : s.issueHeld.loans = s.loans := by
  unfold State.issueHeld
  apply loans_foldl
  intro s a
  first | rfl | (simp; done) | (simp only []; (repeat' split) <;> first | rfl | (simp; done) | (simp; rfl))

@[simp] theorem State.loans_dropAccesses (s : State) :
    s.dropAccesses.loans = s.loans := by
  unfold State.dropAccesses
  simp

@[simp] theorem State.loans_fillWay (s : State) (t : Tag) (k : Nat) (p : RecordTag) :
    (s.fillWay t k p).loans = s.loans := by
  unfold State.fillWay
  (repeat' split) <;> first | rfl | (simp; done) | (simp; rfl)

@[simp] theorem State.loans_settleSuccessor (s : State) (k : Nat) :
    (s.settleSuccessor k).loans = s.loans := by
  unfold State.settleSuccessor
  (repeat' split) <;> first | rfl | (simp; done) | (simp; rfl)

@[simp] theorem State.loans_evictionClosed (s : State) (p : RecordTag) (k : Nat) (contended : Bool) :
    (s.evictionClosed p k contended).loans = s.loans := by
  unfold State.evictionClosed
  simp

@[simp] theorem State.loans_failSlot (s : State) (r : Record) (st : Status) :
    (s.failSlot r st).loans = s.loans := by
  unfold State.failSlot
  split <;> first | rfl | (simp; done) | (simp; rfl)

@[simp] theorem State.loans_failPosition (s : State) (p : RecordTag) (r : Record) (fence : Bool) :
    (s.failPosition p r fence).loans = s.loans := by
  unfold State.failPosition
  split <;> first | rfl | (simp; done) | (simp; rfl)

@[simp] theorem State.loans_actTag (s : State) (k : Nat) (st : Status) (t : Tag) :
    (s.actTag k st t).loans = s.loans := by
  unfold State.actTag
  split <;> first | rfl | (simp; done) | (simp; rfl)

@[simp] theorem State.loans_actTags (s : State) (k : Nat) (st : Status) (ts : List Tag) :
    (s.actTags k st ts).loans = s.loans := by
  unfold State.actTags
  apply loans_foldl
  intro s a
  first | rfl | (simp; done) | (simp only []; (repeat' split) <;> first | rfl | (simp; done) | (simp; rfl))

@[simp] theorem State.loans_evict (s : State) (k : Nat) (p : RecordTag) (kind : Kind)
    (tags : List Tag) :
    (s.evict k p kind tags).loans = s.loans := rfl

@[simp] theorem State.loans_pruneLists (s : State) : s.pruneLists.loans = s.loans := rfl

@[simp] theorem State.loans_readyOffers (s : State) : s.readyOffers.loans = s.loans := by
  unfold State.readyOffers
  apply loans_foldl
  intro s a
  first | rfl | (simp; done) | (simp only []; (repeat' split) <;> first | rfl | (simp; done) | (simp; rfl))

@[simp] theorem State.loans_walkCheck (s : State) : s.walkCheck.loans = s.loans := by
  unfold State.walkCheck
  (repeat' split) <;> first | rfl | (simp; done) | (simp; rfl)

@[simp] theorem State.loans_releaseReserve (s : State) (t : Tag) :
    (s.releaseReserve t).loans = s.loans := by
  unfold State.releaseReserve
  (repeat' split) <;> first | rfl | (simp; done) | (simp; rfl)

@[simp] theorem State.loans_merge (s : State) (t : Tag) (p : RecordTag) :
    (s.merge t p).loans = s.loans := by
  unfold State.merge
  simp

@[simp] theorem State.loans_evictFor (s : State) (t : Tag) (k : Nat) (p q : RecordTag) :
    (s.evictFor t k p q).loans = s.loans := by
  unfold State.evictFor
  simp

@[simp] theorem State.loans_missHeld (s : State) (t : Tag) (k : Nat) :
    (s.missHeld t k).loans = s.loans := by
  unfold State.missHeld
  (repeat' split) <;> first | rfl | (simp; done) | (simp; rfl)

@[simp] theorem State.loans_miss (s : State) (t : Tag) (l : LineAddr) :
    (s.miss t l).loans = s.loans := by
  unfold State.miss
  (repeat' split) <;> first | rfl | (simp; done) | (simp; rfl)

@[simp] theorem State.loans_readHit (s : State) (t : Tag) (k : Nat) (a : Word) (n : Nat) :
    (s.readHit t k a n).loans = s.loans := by
  unfold State.readHit
  simp

@[simp] theorem State.loans_mergeLineRecord (s : State) (t : Tag) (l : LineAddr) (k : Nat) :
    (s.mergeLineRecord t l k).loans = s.loans := by
  unfold State.mergeLineRecord
  split <;> first | rfl | (simp; done) | (simp; rfl)

@[simp] theorem State.loans_copyRead (s : State) (t : Tag) (l : LineAddr) (a : Word) (n : Nat) :
    (s.copyRead t l a n).loans = s.loans := by
  unfold State.copyRead
  (repeat' split) <;> first | rfl | (simp; done) | (simp; rfl)

@[simp] theorem State.loans_writeHit (s : State) (t : Tag) (k : Nat) (r : Request) :
    (s.writeHit t k r).loans = s.loans := by
  unfold State.writeHit
  simp

@[simp] theorem State.loans_copyWrite (s : State) (t : Tag) (l : LineAddr) (r : Request) :
    (s.copyWrite t l r).loans = s.loans := by
  unfold State.copyWrite State.withPosition
  (repeat' split) <;> first | rfl | (simp; done) | (simp; rfl)

@[simp] theorem State.loans_slotless (s : State) (t : Tag) (l : LineAddr) (kind : Kind)
    (payload : Payload) :
    (s.slotless t l kind payload).loans = s.loans := by
  unfold State.slotless State.withPosition
  (repeat' split) <;> first | rfl | (simp; done) | (simp; rfl)

@[simp] theorem State.loans_operateCopy (s : State) (t : Tag) (k : Nat) (op : PoolOp)
    (e : WindowEntry) :
    (s.operateCopy t k op e).loans = s.loans := by
  unfold State.operateCopy
  simp

@[simp] theorem State.loans_copyOperation (s : State) (t : Tag) (l : LineAddr) (op : PoolOp)
    (e : WindowEntry) :
    (s.copyOperation t l op e).loans = s.loans := by
  unfold State.copyOperation
  (repeat' split) <;> first | rfl | (simp; done) | (simp; rfl)

@[simp] theorem State.loans_evictLine (s : State) (t : Tag) (k : Nat) (kind : Kind) :
    (s.evictLine t k kind).loans = s.loans := by
  unfold State.evictLine State.withPosition
  (repeat' split) <;> first | rfl | (simp; done) | (simp; rfl)

@[simp] theorem State.loans_copyMaintain (s : State) (t : Tag) (l : LineAddr) (discard : Bool) :
    (s.copyMaintain t l discard).loans = s.loans := by
  unfold State.copyMaintain
  simp only []
  (repeat' split) <;> first | rfl | (simp; done) | (simp; rfl)

@[simp] theorem State.loans_actBank (s : State) (t : Tag) (r : Request) (res : Resolved) :
    (s.actBank t r res).loans = s.loans := by
  unfold State.actBank
  split <;> first | rfl | (simp; done) | (simp; rfl)

@[simp] theorem State.loans_handlePrivate (s : State) (t : Tag) (r : Request) (res : Resolved) :
    (s.handlePrivate t r res).loans = s.loans := by
  unfold State.handlePrivate
  split <;> first | rfl | (simp; done) | (simp; rfl)

@[simp] theorem State.loans_turnWalk (s : State) (p : RecordTag) : (s.turnWalk p).loans = s.loans := by
  unfold State.turnWalk
  (repeat' split) <;> first | rfl | (simp; done) | (simp; rfl)

@[simp] theorem State.loans_doJoin (s : State) (t : Tag) : (s.doJoin t).loans = s.loans := by
  unfold State.doJoin
  (repeat' split) <;> first | rfl | (simp; done) | (simp; rfl)

@[simp] theorem State.loans_doAckFault (s : State) (t : Tag) : (s.doAckFault t).loans = s.loans := by
  unfold State.doAckFault
  split <;> first | rfl | (simp; done) | (simp; rfl)

@[simp] theorem State.loans_doAckMembership (s : State) (t : Tag) :
    (s.doAckMembership t).loans = s.loans := by
  unfold State.doAckMembership
  split <;> first | rfl | (simp; done) | (simp; rfl)

@[simp] theorem State.loans_reserveSupply (s : State) (pub : Publication) :
    (s.reserveSupply pub).loans = s.loans := by
  unfold State.reserveSupply
  split <;> first | rfl | (simp; done) | (simp; rfl)

@[simp] theorem State.loans_reserveHome (s : State) (pub : Publication) :
    (s.reserveHome pub).loans = s.loans := by
  unfold State.reserveHome
  simp only []
  (repeat' split) <;> first | rfl | (simp; done) | (simp; rfl)

@[simp] theorem State.loans_startOperation (s : State) (h : Fin 8) :
    (s.startOperation h).loans = s.loans := by
  unfold State.startOperation
  (repeat' split) <;> first | rfl | (simp; done) | (simp; rfl)

@[simp] theorem State.loans_departHome (s : State) (d : StationSet) (h : Fin 8) :
    (s.departHome d h).loans = s.loans := by
  unfold State.departHome
  (repeat' split) <;> first | rfl | (simp; done) | (simp; rfl)

@[simp] theorem State.loans_supplySlot (s : State) (pub : Publication) (v : Slot) :
    (s.supplySlot pub v).loans = s.loans := by
  unfold State.supplySlot
  split <;> first | rfl | (simp; done) | (simp; rfl)

@[simp] theorem State.loans_convertClaim (s : State) (k : Nat) (l : LineAddr) :
    (s.convertClaim k l).loans = s.loans := by
  unfold State.convertClaim
  simp only []
  split <;> first | rfl | (simp; done) | (simp; rfl)

@[simp] theorem State.loans_supplyMemory (s : State) (pub : Publication) (index : Nat)
    (first : BitVec 4) (count : BitVec 5) :
    (s.supplyMemory pub index first count).loans = s.loans := by
  unfold State.supplyMemory
  split <;> first | rfl | (simp; done) | (simp; rfl)

@[simp] theorem State.loans_confirmOperation (s : State) (pub : Publication) (op : Operation)
    (holder : Option Station) (index : Nat) :
    (s.confirmOperation pub op holder index).loans = s.loans := by
  unfold State.confirmOperation
  (repeat' split) <;> first | rfl | (simp; done) | (simp; rfl)

@[simp] theorem State.loans_awaitData (s : State) (p : RecordTag) (supplier : Station) :
    (s.awaitData p supplier).loans = s.loans := by
  unfold State.awaitData
  simp

@[simp] theorem State.loans_ownClaim (s : State) (p : RecordTag) (r : Record) :
    (s.ownClaim p r).loans = s.loans := by
  unfold State.ownClaim
  simp only []
  (repeat' (first | split | (refine (loans_foldl _ (fun s a => ?_) _ _).trans ?_))) <;> first | rfl | (simp; done) | (simp; rfl)

@[simp] theorem State.loans_ownWriteThrough (s : State) (p : RecordTag) (r : Record) (keeps : Bool) :
    (s.ownWriteThrough p r keeps).loans = s.loans := by
  unfold State.ownWriteThrough
  simp only []
  (repeat' (first | split | (refine (loans_foldl _ (fun s a => ?_) _ _).trans ?_))) <;> first | rfl | (simp; done) | (simp; rfl)

@[simp] theorem State.loans_ownOperate (s : State) (p : RecordTag) (r : Record) (home : Station) :
    (s.ownOperate p r home).loans = s.loans := by
  unfold State.ownOperate
  (repeat' split) <;> first | rfl | (simp; done) | (simp; rfl)

@[simp] theorem State.loans_freeUsed (s : State) (d : Data) : (s.freeUsed d).loans = s.loans := by
  unfold State.freeUsed
  split <;> first | rfl | (simp; done) | (simp; rfl)

@[simp] theorem State.loans_closeWith (s : State) (p : RecordTag) (r : Record) (st : Status)
    (ws : List Word) :
    (s.closeWith p r st ws).loans = s.loans := by
  unfold State.closeWith
  apply loans_foldl
  intro s a
  first | rfl | (simp; done) | (simp only []; (repeat' split) <;> first | rfl | (simp; done) | (simp; rfl))

@[simp] theorem State.loans_takeDirect (s : State) (p : RecordTag) (r : Record) (d : Data) :
    (s.takeDirect p r d).loans = s.loans := by
  unfold State.takeDirect
  simp

@[simp] theorem State.loans_takeResult (s : State) (p : RecordTag) (r : Record) (d : Data) :
    (s.takeResult p r d).loans = s.loans := by
  unfold State.takeResult
  simp

@[simp] theorem State.loans_writeBack (s : State) (pub : Publication) (d : Data) :
    (s.writeBack pub d).loans = s.loans := by
  unfold State.writeBack
  (repeat' split) <;> first | rfl | (simp; done) | (simp; rfl)

@[simp] theorem State.loans_releaseSource (s : State) (own : Option Source) :
    (s.releaseSource own).loans = s.loans := by
  unfold State.releaseSource
  split <;> first | rfl | (simp; done) | (simp; rfl)

@[simp] theorem State.loans_drainEnd (s : State) : s.drainEnd.loans = s.loans := by
  unfold State.drainEnd
  (repeat' split) <;> first | rfl | (simp; done) | (simp; rfl)

/-! ### the flush walk -/

theorem walk_foldl {α : Type} (f : State → α → State) (h : ∀ s a, (f s a).copy.walk = s.copy.walk)
    (l : List α) : ∀ s : State, (l.foldl f s).copy.walk = s.copy.walk := by
  induction l with
  | nil => intro s; rfl
  | cons a l ih => intro s; exact (ih (f s a)).trans (h s a)

@[simp] theorem State.walk_refreshSlot (s : State) (k : Nat) :
    (s.refreshSlot k).copy.walk = s.copy.walk := by
  unfold State.refreshSlot
  apply walk_foldl
  intro s a
  first | rfl | (simp; done) | (simp only []; (repeat' split) <;> first | rfl | (simp; done) | (simp; rfl))

@[simp] theorem State.walk_updateLoan (s : State) (index : Nat) (f : LoanEntry → LoanEntry) :
    (s.updateLoan index f).copy.walk = s.copy.walk := by
  unfold State.updateLoan
  (repeat' split) <;> first | rfl | (simp; done) | (simp; rfl)

@[simp] theorem State.walk_refreshLoanWay (s : State) (k : Nat) :
    (s.refreshLoanWay k).copy.walk = s.copy.walk := by
  unfold State.refreshLoanWay
  apply walk_foldl
  intro s a
  first | rfl | (simp; done) | (simp only []; (repeat' split) <;> first | rfl | (simp; done) | (simp; rfl))

@[simp] theorem State.walk_refreshLoan (s : State) (index : Nat) :
    (s.refreshLoan index).copy.walk = s.copy.walk := by
  unfold State.refreshLoan
  split <;> first | rfl | (simp; done) | (simp; rfl)

@[simp] theorem State.walk_setProgress (s : State) (t : Tag) (p : Progress) :
    (s.setProgress t p).copy.walk = s.copy.walk := by
  unfold State.setProgress
  split <;> first | rfl | (simp; done) | (simp; rfl)

@[simp] theorem State.walk_complete (s : State) (t : Tag) (st : Status) (ws : List Word) :
    (s.complete t st ws).copy.walk = s.copy.walk := by
  unfold State.complete
  split <;> first | rfl | (simp; done) | (simp; rfl)

@[simp] theorem State.walk_completeAll (s : State) (ts : List Tag) (st : Status) :
    (s.completeAll ts st).copy.walk = s.copy.walk := by
  unfold State.completeAll
  apply walk_foldl
  intro s a
  first | rfl | (simp; done) | (simp only []; (repeat' split) <;> first | rfl | (simp; done) | (simp; rfl))

@[simp] theorem State.walk_streamFlushFrom (ts : List Tag) :
    ∀ s : State, (streamFlushFrom ts s).copy.walk = s.copy.walk := by
  induction ts with
  | nil => intro s; rfl
  | cons t ts ih =>
    intro s
    unfold streamFlushFrom
    split
    · rw [ih]; simp
    · rfl
    · exact ih s

@[simp] theorem State.walk_streamFlush (s : State) : s.streamFlush.copy.walk = s.copy.walk := by
  unfold State.streamFlush
  simp

@[simp] theorem State.walk_decided (s : State) (t : Tag) (st : Status) (ws : List Word) :
    (s.decided t st ws).copy.walk = s.copy.walk := by
  unfold State.decided
  simp

@[simp] theorem State.walk_haltPort (s : State) : s.haltPort.copy.walk = s.copy.walk := by
  unfold State.haltPort
  apply walk_foldl
  intro s a
  first | rfl | (simp; done) | (simp only []; (repeat' split) <;> first | rfl | (simp; done) | (simp; rfl))

@[simp] theorem State.walk_updateRecord (s : State) (p : RecordTag) (f : Record → Record) :
    (s.updateRecord p f).copy.walk = s.copy.walk := by
  unfold State.updateRecord
  split <;> first | rfl | (simp; done) | (simp; rfl)

@[simp] theorem State.walk_releaseSupply (s : State) : s.releaseSupply.copy.walk = s.copy.walk := by
  unfold State.releaseSupply
  split <;> first | rfl | (simp; done) | (simp; rfl)

@[simp] theorem State.walk_freeIdle (s : State) (index : Nat) :
    (s.freeIdle index).copy.walk = s.copy.walk := by
  unfold State.freeIdle
  (repeat' split) <;> first | rfl | (simp; done) | (simp; rfl)

@[simp] theorem State.walk_freeIdleLine (s : State) (l : LineAddr) :
    (s.freeIdleLine l).copy.walk = s.copy.walk := by
  unfold State.freeIdleLine
  split <;> first | rfl | (simp; done) | (simp; rfl)

@[simp] theorem State.walk_freeHomeEntry (s : State) (e : Fin 8) :
    (s.freeHomeEntry e).copy.walk = s.copy.walk := by
  unfold State.freeHomeEntry
  simp only []
  split <;> first | rfl | (simp; done) | (simp; rfl)

@[simp] theorem State.walk_completeHome (s : State) (t : Tag) (st : Status) (ws : List Word) :
    (s.completeHome t st ws).copy.walk = s.copy.walk := by
  unfold State.completeHome
  split <;> first | rfl | (simp; done) | (simp; rfl)

@[simp] theorem State.walk_issue (s : State) (d : Due) : (s.issue d).copy.walk = s.copy.walk := by
  unfold State.issue
  (repeat' split) <;> first | rfl | (simp; done) | (simp; rfl)

@[simp] theorem State.walk_issueHeld (s : State) : s.issueHeld.copy.walk = s.copy.walk := by
  unfold State.issueHeld
  apply walk_foldl
  intro s a
  first | rfl | (simp; done) | (simp only []; (repeat' split) <;> first | rfl | (simp; done) | (simp; rfl))

@[simp] theorem State.walk_dropAccesses (s : State) :
    s.dropAccesses.copy.walk = s.copy.walk := by
  unfold State.dropAccesses
  simp

@[simp] theorem State.walk_fillWay (s : State) (t : Tag) (k : Nat) (p : RecordTag) :
    (s.fillWay t k p).copy.walk = s.copy.walk := by
  unfold State.fillWay
  (repeat' split) <;> first | rfl | (simp; done) | (simp; rfl)

@[simp] theorem State.walk_settleSuccessor (s : State) (k : Nat) :
    (s.settleSuccessor k).copy.walk = s.copy.walk := by
  unfold State.settleSuccessor
  (repeat' split) <;> first | rfl | (simp; done) | (simp; rfl)

@[simp] theorem State.walk_recallClosed (s : State) (l : LineAddr) (lost : Bool) :
    (s.recallClosed l lost).copy.walk = s.copy.walk := by
  unfold State.recallClosed
  split <;> first | rfl | (simp; done) | (simp; rfl)

@[simp] theorem State.walk_recallContended (s : State) (l : LineAddr) :
    (s.recallContended l).copy.walk = s.copy.walk := by
  unfold State.recallContended
  split <;> first | rfl | (simp; done) | (simp; rfl)

@[simp] theorem State.walk_failSlot (s : State) (r : Record) (st : Status) :
    (s.failSlot r st).copy.walk = s.copy.walk := by
  unfold State.failSlot
  split <;> first | rfl | (simp; done) | (simp; rfl)

@[simp] theorem State.walk_failPosition (s : State) (p : RecordTag) (r : Record) (fence : Bool) :
    (s.failPosition p r fence).copy.walk = s.copy.walk := by
  unfold State.failPosition
  split <;> first | rfl | (simp; done) | (simp; rfl)

@[simp] theorem State.walk_actTag (s : State) (k : Nat) (st : Status) (t : Tag) :
    (s.actTag k st t).copy.walk = s.copy.walk := by
  unfold State.actTag
  split <;> first | rfl | (simp; done) | (simp; rfl)

@[simp] theorem State.walk_actTags (s : State) (k : Nat) (st : Status) (ts : List Tag) :
    (s.actTags k st ts).copy.walk = s.copy.walk := by
  unfold State.actTags
  apply walk_foldl
  intro s a
  first | rfl | (simp; done) | (simp only []; (repeat' split) <;> first | rfl | (simp; done) | (simp; rfl))

@[simp] theorem State.walk_readyOffers (s : State) : s.readyOffers.copy.walk = s.copy.walk := by
  unfold State.readyOffers
  apply walk_foldl
  intro s a
  first | rfl | (simp; done) | (simp only []; (repeat' split) <;> first | rfl | (simp; done) | (simp; rfl))

@[simp] theorem State.walk_drainSweep (s : State) : s.drainSweep.copy.walk = s.copy.walk := by
  unfold State.drainSweep
  split <;> first | rfl | (simp; done) | (simp; rfl)

@[simp] theorem State.walk_releaseReserve (s : State) (t : Tag) :
    (s.releaseReserve t).copy.walk = s.copy.walk := by
  unfold State.releaseReserve
  (repeat' split) <;> first | rfl | (simp; done) | (simp; rfl)

@[simp] theorem State.walk_merge (s : State) (t : Tag) (p : RecordTag) :
    (s.merge t p).copy.walk = s.copy.walk := by
  unfold State.merge
  simp

@[simp] theorem State.walk_readHit (s : State) (t : Tag) (k : Nat) (a : Word) (n : Nat) :
    (s.readHit t k a n).copy.walk = s.copy.walk := by
  unfold State.readHit
  simp

@[simp] theorem State.walk_mergeLineRecord (s : State) (t : Tag) (l : LineAddr) (k : Nat) :
    (s.mergeLineRecord t l k).copy.walk = s.copy.walk := by
  unfold State.mergeLineRecord
  split <;> first | rfl | (simp; done) | (simp; rfl)

@[simp] theorem State.walk_writeHit (s : State) (t : Tag) (k : Nat) (r : Request) :
    (s.writeHit t k r).copy.walk = s.copy.walk := by
  unfold State.writeHit
  simp

@[simp] theorem State.walk_slotless (s : State) (t : Tag) (l : LineAddr) (kind : Kind)
    (payload : Payload) :
    (s.slotless t l kind payload).copy.walk = s.copy.walk := by
  unfold State.slotless State.withPosition
  (repeat' split) <;> first | rfl | (simp; done) | (simp; rfl)

@[simp] theorem State.walk_operateCopy (s : State) (t : Tag) (k : Nat) (op : PoolOp) (e : WindowEntry) :
    (s.operateCopy t k op e).copy.walk = s.copy.walk := by
  unfold State.operateCopy
  simp

@[simp] theorem State.walk_copyOperation (s : State) (t : Tag) (l : LineAddr) (op : PoolOp)
    (e : WindowEntry) :
    (s.copyOperation t l op e).copy.walk = s.copy.walk := by
  unfold State.copyOperation
  (repeat' split) <;> first | rfl | (simp; done) | (simp; rfl)

@[simp] theorem State.walk_actBank (s : State) (t : Tag) (r : Request) (res : Resolved) :
    (s.actBank t r res).copy.walk = s.copy.walk := by
  unfold State.actBank
  split <;> first | rfl | (simp; done) | (simp; rfl)

@[simp] theorem State.walk_actHome (s : State) (t : Tag) (r : Request) (res : Resolved) :
    (s.actHome t r res).copy.walk = s.copy.walk := by
  unfold State.actHome
  (repeat' split) <;> first | rfl | (simp; done) | (simp; rfl)

@[simp] theorem State.walk_makeRecall (s : State) (p : RecordTag) (kind : Kind) (l : LineAddr)
    (index : Nat) (payload : Payload) :
    (s.makeRecall p kind l index payload).copy.walk = s.copy.walk := by
  unfold State.makeRecall
  (repeat' split) <;> first | rfl | (simp; done) | (simp; rfl)

@[simp] theorem State.walk_awaitRecall (s : State) (t : Tag) (e : Fin 8) (kind : Kind)
    (res : Resolved) :
    (s.awaitRecall t e kind res).copy.walk = s.copy.walk := by
  unfold State.awaitRecall
  simp only []
  (repeat' split) <;> first | rfl | (simp; done) | (simp; rfl)

@[simp] theorem State.walk_handleHome (s : State) (t : Tag) (r : Request) (res : Resolved) :
    (s.handleHome t r res).copy.walk = s.copy.walk := by
  unfold State.handleHome
  simp only []
  (repeat' split) <;> first | rfl | (simp; done) | (simp; rfl)

@[simp] theorem State.walk_handlePrivate (s : State) (t : Tag) (r : Request) (res : Resolved) :
    (s.handlePrivate t r res).copy.walk = s.copy.walk := by
  unfold State.handlePrivate
  split <;> first | rfl | (simp; done) | (simp; rfl)

@[simp] theorem State.walk_handleQueued (s : State) (t : Tag) :
    (s.handleQueued t).copy.walk = s.copy.walk := by
  unfold State.handleQueued
  (repeat' split) <;> first | rfl | (simp; done) | (simp; rfl)

@[simp] theorem State.walk_doJoin (s : State) (t : Tag) : (s.doJoin t).copy.walk = s.copy.walk := by
  unfold State.doJoin
  (repeat' split) <;> first | rfl | (simp; done) | (simp; rfl)

@[simp] theorem State.walk_doAckFault (s : State) (t : Tag) :
    (s.doAckFault t).copy.walk = s.copy.walk := by
  unfold State.doAckFault
  split <;> first | rfl | (simp; done) | (simp; rfl)

@[simp] theorem State.walk_doAckMembership (s : State) (t : Tag) :
    (s.doAckMembership t).copy.walk = s.copy.walk := by
  unfold State.doAckMembership
  split <;> first | rfl | (simp; done) | (simp; rfl)

@[simp] theorem State.walk_reserveSupply (s : State) (pub : Publication) :
    (s.reserveSupply pub).copy.walk = s.copy.walk := by
  unfold State.reserveSupply
  split <;> first | rfl | (simp; done) | (simp; rfl)

@[simp] theorem State.walk_reserveHome (s : State) (pub : Publication) :
    (s.reserveHome pub).copy.walk = s.copy.walk := by
  unfold State.reserveHome
  simp only []
  (repeat' split) <;> first | rfl | (simp; done) | (simp; rfl)

@[simp] theorem State.walk_becomeMember (s : State) : s.becomeMember.copy.walk = s.copy.walk := rfl

@[simp] theorem State.walk_departSlots (s : State) (d : StationSet) :
    (s.departSlots d).copy.walk = s.copy.walk := rfl

@[simp] theorem State.walk_departLoans (s : State) (d : StationSet) :
    (s.departLoans d).copy.walk = s.copy.walk := rfl

@[simp] theorem State.walk_startOperation (s : State) (h : Fin 8) :
    (s.startOperation h).copy.walk = s.copy.walk := by
  unfold State.startOperation
  (repeat' split) <;> first | rfl | (simp; done) | (simp; rfl)

@[simp] theorem State.walk_departHome (s : State) (d : StationSet) (h : Fin 8) :
    (s.departHome d h).copy.walk = s.copy.walk := by
  unfold State.departHome
  (repeat' split) <;> first | rfl | (simp; done) | (simp; rfl)

@[simp] theorem State.walk_supplySlot (s : State) (pub : Publication) (v : Slot) :
    (s.supplySlot pub v).copy.walk = s.copy.walk := by
  unfold State.supplySlot
  split <;> first | rfl | (simp; done) | (simp; rfl)

@[simp] theorem State.walk_convertClaim (s : State) (k : Nat) (l : LineAddr) :
    (s.convertClaim k l).copy.walk = s.copy.walk := by
  unfold State.convertClaim
  simp only []
  split <;> first | rfl | (simp; done) | (simp; rfl)

@[simp] theorem State.walk_releaseHome (s : State) : s.releaseHome.copy.walk = s.copy.walk := by
  unfold State.releaseHome
  simp only []
  split <;> first | rfl | (simp; done) | (simp; rfl)

@[simp] theorem State.walk_allocateLoan (s : State) (k : Kind) (index : Nat) (l : LineAddr) :
    (s.allocateLoan k index l).copy.walk = s.copy.walk := by
  unfold State.allocateLoan
  (repeat' split) <;> first | rfl | (simp; done) | (simp; rfl)

@[simp] theorem State.walk_loanTally (s : State) (pub : Publication) (rd : Reading) (index : Nat) :
    (s.loanTally pub rd index).copy.walk = s.copy.walk := by
  unfold State.loanTally
  simp

@[simp] theorem State.walk_supplyMemory (s : State) (pub : Publication) (index : Nat)
    (first : BitVec 4) (count : BitVec 5) :
    (s.supplyMemory pub index first count).copy.walk = s.copy.walk := by
  unfold State.supplyMemory
  split <;> first | rfl | (simp; done) | (simp; rfl)

@[simp] theorem State.walk_confirmOperation (s : State) (pub : Publication) (op : Operation)
    (holder : Option Station) (index : Nat) :
    (s.confirmOperation pub op holder index).copy.walk = s.copy.walk := by
  unfold State.confirmOperation
  (repeat' split) <;> first | rfl | (simp; done) | (simp; rfl)

@[simp] theorem State.walk_recallUnheld (s : State) (index : Nat) (holder : Option Station) :
    (s.recallUnheld index holder).copy.walk = s.copy.walk := by
  unfold State.recallUnheld
  split <;> first | rfl | (simp; done) | (simp; rfl)

@[simp] theorem State.walk_homeWork (s : State) (pub : Publication) (rd : Reading) (index : Nat) :
    (s.homeWork pub rd index).copy.walk = s.copy.walk := by
  unfold State.homeWork
  (repeat' split) <;> first | rfl | (simp; done) | (simp; rfl)

@[simp] theorem State.walk_awaitData (s : State) (p : RecordTag) (supplier : Station) :
    (s.awaitData p supplier).copy.walk = s.copy.walk := by
  unfold State.awaitData
  simp

@[simp] theorem State.walk_ownClaim (s : State) (p : RecordTag) (r : Record) :
    (s.ownClaim p r).copy.walk = s.copy.walk := by
  unfold State.ownClaim
  simp only []
  (repeat' (first | split | (refine (walk_foldl _ (fun s a => ?_) _ _).trans ?_))) <;> first | rfl | (simp; done) | (simp; rfl)

@[simp] theorem State.walk_ownWriteThrough (s : State) (p : RecordTag) (r : Record) (keeps : Bool) :
    (s.ownWriteThrough p r keeps).copy.walk = s.copy.walk := by
  unfold State.ownWriteThrough
  simp only []
  (repeat' (first | split | (refine (walk_foldl _ (fun s a => ?_) _ _).trans ?_))) <;> first | rfl | (simp; done) | (simp; rfl)

@[simp] theorem State.walk_ownOperate (s : State) (p : RecordTag) (r : Record) (home : Station) :
    (s.ownOperate p r home).copy.walk = s.copy.walk := by
  unfold State.ownOperate
  (repeat' split) <;> first | rfl | (simp; done) | (simp; rfl)

@[simp] theorem State.walk_freeUsed (s : State) (d : Data) :
    (s.freeUsed d).copy.walk = s.copy.walk := by
  unfold State.freeUsed
  split <;> first | rfl | (simp; done) | (simp; rfl)

@[simp] theorem State.walk_closeWith (s : State) (p : RecordTag) (r : Record) (st : Status)
    (ws : List Word) :
    (s.closeWith p r st ws).copy.walk = s.copy.walk := by
  unfold State.closeWith
  apply walk_foldl
  intro s a
  first | rfl | (simp; done) | (simp only []; (repeat' split) <;> first | rfl | (simp; done) | (simp; rfl))

@[simp] theorem State.walk_takeDirect (s : State) (p : RecordTag) (r : Record) (d : Data) :
    (s.takeDirect p r d).copy.walk = s.copy.walk := by
  unfold State.takeDirect
  simp

@[simp] theorem State.walk_takeResult (s : State) (p : RecordTag) (r : Record) (d : Data) :
    (s.takeResult p r d).copy.walk = s.copy.walk := by
  unfold State.takeResult
  simp

@[simp] theorem State.walk_takeHolderData (s : State) (h : Fin 8) (d : Data) :
    (s.takeHolderData h d).copy.walk = s.copy.walk := by
  unfold State.takeHolderData
  simp only []
  (repeat' split) <;> first | rfl | (simp; done) | (simp; rfl)

@[simp] theorem State.walk_writeBack (s : State) (pub : Publication) (d : Data) :
    (s.writeBack pub d).copy.walk = s.copy.walk := by
  unfold State.writeBack
  (repeat' split) <;> first | rfl | (simp; done) | (simp; rfl)

@[simp] theorem State.walk_settleOwed (s : State) (pub : Publication) :
    (s.settleOwed pub).copy.walk = s.copy.walk := by
  unfold State.settleOwed
  (repeat' split) <;> first | rfl | (simp; done) | (simp; rfl)

@[simp] theorem State.walk_releaseSource (s : State) (own : Option Source) :
    (s.releaseSource own).copy.walk = s.copy.walk := by
  unfold State.releaseSource
  split <;> first | rfl | (simp; done) | (simp; rfl)

@[simp] theorem State.walk_dropForJoiner (s : State) (j : Station) :
    (s.dropForJoiner j).copy.walk = s.copy.walk := rfl

@[simp] theorem State.walk_correctLoan (s : State) (l : LineAddr) (kind : Kind) (r : Station) :
    (s.correctLoan l kind r).copy.walk = s.copy.walk := by
  unfold State.correctLoan
  split <;> first | rfl | (simp; done) | (simp; rfl)

@[simp] theorem State.walk_memoryWriteEnd (s : State) : s.memoryWriteEnd.copy.walk = s.copy.walk := by
  unfold State.memoryWriteEnd
  split <;> first | rfl | (simp; done) | (simp; rfl)

@[simp] theorem State.walk_deliverResult (s : State) (h : Fin 8) (o : OpResult) :
    (s.deliverResult h o).copy.walk = s.copy.walk := by
  unfold State.deliverResult
  (repeat' split) <;> first | rfl | (simp; done) | (simp; rfl)

@[simp] theorem State.walk_deliver (s : State) (r : Run) (o : OpResult) :
    (s.deliver r o).copy.walk = s.copy.walk := by
  unfold State.deliver
  split <;> first | rfl | (simp; done) | (simp; rfl)

@[simp] theorem State.walk_drainEnd (s : State) : s.drainEnd.copy.walk = s.copy.walk := by
  unfold State.drainEnd
  (repeat' split) <;> first | rfl | (simp; done) | (simp; rfl)

/-! ### Records made, freed and closed; the snoop unit -/

@[simp] theorem State.bank_makeRecord (s : State) (p : RecordTag) (kind : Kind) (l : LineAddr) (slot : Option Nat)
    (tags : List Tag) (payload : Payload) :
    (s.makeRecord p kind l slot tags payload).bank = s.bank := rfl

@[simp] theorem State.supply_makeRecord (s : State) (p : RecordTag) (kind : Kind) (l : LineAddr) (slot : Option Nat)
    (tags : List Tag) (payload : Payload) :
    (s.makeRecord p kind l slot tags payload).supply = s.supply := rfl

@[simp] theorem State.homeQueue_makeRecord (s : State) (p : RecordTag) (kind : Kind) (l : LineAddr) (slot : Option Nat)
    (tags : List Tag) (payload : Payload) :
    (s.makeRecord p kind l slot tags payload).homeQueue = s.homeQueue := rfl

@[simp] theorem State.port_makeRecord (s : State) (p : RecordTag) (kind : Kind) (l : LineAddr) (slot : Option Nat)
    (tags : List Tag) (payload : Payload) :
    (s.makeRecord p kind l slot tags payload).port = s.port := rfl

@[simp] theorem State.copy_makeRecord (s : State) (p : RecordTag) (kind : Kind) (l : LineAddr) (slot : Option Nat)
    (tags : List Tag) (payload : Payload) :
    (s.makeRecord p kind l slot tags payload).copy = s.copy := rfl

@[simp] theorem State.loans_makeRecord (s : State) (p : RecordTag) (kind : Kind) (l : LineAddr) (slot : Option Nat)
    (tags : List Tag) (payload : Payload) :
    (s.makeRecord p kind l slot tags payload).loans = s.loans := rfl

@[simp] theorem State.members_makeRecord (s : State) (p : RecordTag) (kind : Kind) (l : LineAddr) (slot : Option Nat)
    (tags : List Tag) (payload : Payload) :
    (s.makeRecord p kind l slot tags payload).members = s.members := rfl

@[simp] theorem State.state_makeRecord (s : State) (p : RecordTag) (kind : Kind) (l : LineAddr) (slot : Option Nat)
    (tags : List Tag) (payload : Payload) :
    (s.makeRecord p kind l slot tags payload).state = s.state := rfl

@[simp] theorem State.bank_freeRecord (s : State) (p : RecordTag) :
    (s.freeRecord p).bank = s.bank := rfl

@[simp] theorem State.supply_freeRecord (s : State) (p : RecordTag) :
    (s.freeRecord p).supply = s.supply := rfl

@[simp] theorem State.homeQueue_freeRecord (s : State) (p : RecordTag) :
    (s.freeRecord p).homeQueue = s.homeQueue := rfl

@[simp] theorem State.port_freeRecord (s : State) (p : RecordTag) :
    (s.freeRecord p).port = s.port := rfl

@[simp] theorem State.copy_freeRecord (s : State) (p : RecordTag) :
    (s.freeRecord p).copy = s.copy := rfl

@[simp] theorem State.loans_freeRecord (s : State) (p : RecordTag) :
    (s.freeRecord p).loans = s.loans := rfl

@[simp] theorem State.members_freeRecord (s : State) (p : RecordTag) :
    (s.freeRecord p).members = s.members := rfl

@[simp] theorem State.state_freeRecord (s : State) (p : RecordTag) :
    (s.freeRecord p).state = s.state := rfl

@[simp] theorem State.bank_closeEviction (s : State) (p : RecordTag) :
    (s.closeEviction p).bank = s.bank := by
  unfold State.closeEviction
  (repeat' split) <;> first | rfl | (simp; done) | (simp; rfl)

@[simp] theorem State.supply_closeEviction (s : State) (p : RecordTag) :
    (s.closeEviction p).supply = s.supply := by
  unfold State.closeEviction
  (repeat' split) <;> first | rfl | (simp; done) | (simp; rfl)

@[simp] theorem State.homeQueue_closeEviction (s : State) (p : RecordTag) :
    (s.closeEviction p).homeQueue = s.homeQueue := by
  unfold State.closeEviction
  (repeat' split) <;> first | rfl | (simp; done) | (simp; rfl)

@[simp] theorem State.loans_closeEviction (s : State) (p : RecordTag) :
    (s.closeEviction p).loans = s.loans := by
  unfold State.closeEviction
  (repeat' split) <;> first | rfl | (simp; done) | (simp; rfl)

@[simp] theorem State.bank_snoopSlot (s : State) (pub : Publication) (k : Nat) :
    (s.snoopSlot pub k).bank = s.bank := by
  unfold State.snoopSlot
  simp only []
  (split <;> (repeat' split)) <;> first | rfl | (simp; done) | (simp; rfl)

@[simp] theorem State.bank_snoopTally (s : State) (pub : Publication) (effect : Bool) :
    (s.snoopTally pub effect).bank = s.bank := by
  unfold State.snoopTally
  (split <;> (repeat' split)) <;> first | rfl | (simp; done) | (simp; rfl)

@[simp] theorem State.homeQueue_snoopSlot (s : State) (pub : Publication) (k : Nat) :
    (s.snoopSlot pub k).homeQueue = s.homeQueue := by
  unfold State.snoopSlot
  simp only []
  (split <;> (repeat' split)) <;> first | rfl | (simp; done) | (simp; rfl)

@[simp] theorem State.homeQueue_snoopTally (s : State) (pub : Publication) (effect : Bool) :
    (s.snoopTally pub effect).homeQueue = s.homeQueue := by
  unfold State.snoopTally
  (split <;> (repeat' split)) <;> first | rfl | (simp; done) | (simp; rfl)

@[simp] theorem State.loans_snoopSlot (s : State) (pub : Publication) (k : Nat) :
    (s.snoopSlot pub k).loans = s.loans := by
  unfold State.snoopSlot
  simp only []
  (split <;> (repeat' split)) <;> first | rfl | (simp; done) | (simp; rfl)

@[simp] theorem State.loans_snoopTally (s : State) (pub : Publication) (effect : Bool) :
    (s.snoopTally pub effect).loans = s.loans := by
  unfold State.snoopTally
  (split <;> (repeat' split)) <;> first | rfl | (simp; done) | (simp; rfl)

end Sys2Proof.Machine
end

