-- ==== Sys2Proof/Laws/Outer.lean ====
section
/-! SUPPORT. What the operations that do change the rim make of it: the halt, the posting of a notice,
a departure, and the events of a membership. -/
namespace Sys2Proof.Machine

@[simp] theorem State.rim_inTakenOrder (s : State) (f : State → State) :
    (s.inTakenOrder f).rim = (f s).rim := rfl

@[simp] theorem State.rim_jointly (s : State) (several : Bool) (u : State) :
    (s.jointly several u).rim = u.rim := by
  unfold State.jointly
  split <;> rfl

theorem State.rim_ifLive (s : State) (f : State → State) :
    (s.ifLive f).rim = if s.state = .halted then s.rim else (f s).rim := by
  unfold State.ifLive
  split <;> rfl

/-- The rim after a halt (R175). -/
def Rim.halted (r : Rim) : Rim :=
  { r with state := .halted, contention := none, present := 0, awaited := 0, timer := false }

theorem State.rim_halt (s : State) : s.halt.rim = s.rim.halted := by
  have h := s.rim_haltPort
  unfold State.halt
  simp only [State.rim, Rim.halted, Rim.mk.injEq] at h ⊢
  simp_all

/-- The rim after a notice is posted (R173). -/
theorem State.rim_post (s : State) (n : Notice) :
    (s.post n).rim =
      if s.state = .halted then s.rim
      else if s.faults.length < 2 then { s.rim with faults := s.faults ++ [n] }
      else s.rim.halted := by
  unfold State.post
  split
  · rfl
  · split
    · rfl
    · exact s.rim_halt

theorem State.rim_departMembers (s : State) (d : StationSet) :
    (s.departMembers d).rim =
      { s.rim with present := s.members.present &&& ~~~d, awaited := s.members.awaited &&& ~~~d,
                   changed := true } := rfl

theorem State.rim_abandonLeave (s : State) :
    s.abandonLeave.rim = { s.rim with state := .member } := by
  unfold State.abandonLeave
  simp only []
  split
  · rw [State.rim_decided]; rfl
  · rfl

/-- What R52 decides of the rim: a LEAVING station that retains lines is MEMBER. -/
def Rim.judged (r : Rim) (retained : Bool) : Rim :=
  if r.state = .leaving ∧ retained = true then { r with state := .member } else r

theorem State.rim_judgeLeave (s : State) : ∃ retained, s.judgeLeave.rim = s.rim.judged retained := by
  refine ⟨decide (s.retainedHeld ≠ 0), ?_⟩
  unfold State.judgeLeave Rim.judged
  rw [show s.rim.state = s.state from rfl]
  by_cases h : s.state = .leaving ∧ s.retainedHeld ≠ 0
  · rw [if_pos (by simpa using h), State.rim_abandonLeave, if_pos (by simpa using h)]
  · rw [if_neg (by simpa using h), if_neg (by simpa using h)]

theorem State.rim_departBlocks (s : State) (d : StationSet) :
    (s.departBlocks d).rim =
      { s.rim with present := s.members.present &&& ~~~d, awaited := s.members.awaited &&& ~~~d,
                   changed := true } := by
  unfold State.departBlocks
  simp only []
  rw [rim_foldl _ (fun s h => s.rim_departHome d h), State.rim_departLoans,
    rim_foldl _ (fun s p => s.rim_departPosition d p), State.rim_departSlots, State.rim_departMembers]

/-- The rim after the effects of a departure (R54): the sets lose the departed, the mark is set, and R52 is
judged unless the station is about to halt. -/
theorem State.rim_departEffects (s : State) (d : StationSet) (halts : Bool) :
    ∃ retained, (s.departEffects d halts).rim =
      ({ s.rim with present := s.members.present &&& ~~~d, awaited := s.members.awaited &&& ~~~d,
                    changed := true } : Rim).judged (!halts && retained) := by
  unfold State.departEffects
  rw [State.rim_walkCheck, State.rim_pruneLists, State.rim_closing]
  cases halts with
  | true =>
    refine ⟨false, ?_⟩
    rw [if_pos rfl, State.rim_departBlocks]
    simp [Rim.judged]
  | false =>
    obtain ⟨b, h⟩ := (s.departBlocks d).rim_judgeLeave
    refine ⟨b, ?_⟩
    rw [if_neg (by simp), h, State.rim_departBlocks]
    rfl

/-- What a list of postings can make of the rim: more notices, or the halt. -/
theorem State.rim_postings (f : State → Station → State)
    (hf : ∀ s p, f s p = s ∨ ∃ n, f s p = s.post n) (l : List Station) :
    ∀ s : State, s.faults.length ≤ 2 →
      ((l.foldl f s).rim = { s.rim with faults := (l.foldl f s).faults } ∨
        ∃ x, (l.foldl f s).rim = ({ s.rim with faults := x } : Rim).halted) ∧
      (l.foldl f s).faults.length ≤ 2 := by
  induction l with
  | nil => intro s h; exact ⟨.inl rfl, h⟩
  | cons p l ih =>
    intro s h
    simp only [List.foldl_cons]
    rcases hf s p with e | ⟨n, e⟩
    · rw [e]; exact ih s h
    · have hp := s.rim_post n
      rw [e]
      have hl : (s.post n).faults.length ≤ 2 := by
        have := congrArg Rim.faults hp
        simp only [State.rim] at this
        rw [this]
        split
        · exact h
        · split
          · simp; omega
          · exact h
      obtain ⟨h1, h2⟩ := ih (s.post n) hl
      refine ⟨?_, h2⟩
      rw [hp] at h1
      split at h1
      · exact h1
      · split at h1
        · rcases h1 with h1 | ⟨x, h1⟩
          · exact .inl h1
          · exact .inr ⟨x, h1⟩
        · rcases h1 with h1 | ⟨x, h1⟩
          · exact .inr ⟨_, h1⟩
          · exact .inr ⟨x, h1⟩

/-- The rim after the notices of a departure (R57, R174): more notices, or the halt. -/
theorem State.rim_departNotices (s : State) (d : StationSet) (losses : Station → Nat)
    (h : s.faults.length ≤ 2) :
    ((s.departNotices d losses).rim = { s.rim with faults := (s.departNotices d losses).faults } ∨
      ∃ x, (s.departNotices d losses).rim = ({ s.rim with faults := x } : Rim).halted) ∧
    (s.departNotices d losses).faults.length ≤ 2 := by
  unfold State.departNotices
  apply State.rim_postings _ _ _ s h
  intro s p
  by_cases hc : (inSet d p && decide (0 < losses p)) = true
  · exact .inr ⟨_, if_pos hc⟩
  · exact .inl (if_neg hc)

theorem State.rim_becomeMember (s : State) :
    s.becomeMember.rim = { s.rim with state := .member, awaited := 0, timer := false } := rfl

theorem State.rim_enterMember (s : State) :
    s.enterMember.rim = { s.rim with state := .member, awaited := 0, timer := false } := by
  unfold State.enterMember
  rw [State.rim_takeUpWaiting]
  rfl

theorem State.rim_doJoin (s : State) (t : Tag) :
    (s.doJoin t).rim = s.rim ∨
    (s.state = .unjoined ∧ (s.doJoin t).rim =
      { s.rim with state := .joining, decoder := { s.decoder with frozen := true } }) := by
  unfold State.doJoin
  split <;> first | (left; simp; done) | skip
  rename_i h
  split
  · left; simp
  · right; exact ⟨h, rfl⟩

theorem State.rim_doLeave (s : State) (t : Tag) :
    (s.doLeave t).rim = s.rim ∨
    (s.state = .member ∧ (s.doLeave t).rim = { s.rim with state := .leaving }) := by
  unfold State.doLeave
  split <;> first | (left; simp; done) | skip
  rename_i h
  split
  · right; refine ⟨h, ?_⟩; rw [State.rim_grantStep, State.rim_drainSweep]; rfl
  · left; simp

theorem State.rim_doApertureWrite (s : State) (t : Tag) (offset w : Word) :
    (s.doApertureWrite t offset w).rim = s.rim ∨
    (s.state = .unjoined ∧ ∃ table code, (s.doApertureWrite t offset w).rim =
      { s.rim with decoder := { s.decoder with table := table, sizeCode := code } }) := by
  unfold State.doApertureWrite
  split
  · left; simp
  · split
    · left; simp
    · split
      · rename_i h
        right
        refine ⟨h, ?_⟩
        rw [State.rim_decided]
        unfold State.apertureWritten
        split
        · exact ⟨s.decoder.table, _, rfl⟩
        · exact ⟨_, s.decoder.sizeCode, rfl⟩
        · exact ⟨s.decoder.table, s.decoder.sizeCode, rfl⟩
      · left; simp

theorem State.rim_doAckFault (s : State) (t : Tag) :
    (s.doAckFault t).rim = s.rim ∨ (s.doAckFault t).rim = { s.rim with faults := [] } := by
  unfold State.doAckFault
  split
  · left; simp
  · right; rw [State.rim_decided]; rfl

theorem State.rim_doAckMembership (s : State) (t : Tag) :
    (s.doAckMembership t).rim = s.rim ∨ (s.doAckMembership t).rim = { s.rim with changed := false } := by
  unfold State.doAckMembership
  split
  · left; simp
  · right; rw [State.rim_decided]; rfl

theorem State.rim_joinRefused (s : State) (r : StationSet) :
    (s.joinRefused r).rim =
      { s.rim with state := .unjoined, decoder := { s.decoder with frozen := false } } := by
  unfold State.joinRefused
  rw [State.rim_inTakenOrder, State.rim_dismissPool]
  simp only []
  split
  · rw [State.rim_decided]; rfl
  · rfl

theorem State.rim_joinAdmitted (s : State) (others : StationSet) :
    (s.joinAdmitted others).rim =
      { s.rim with state := (if others = 0 then .member else .settling),
                   present := others ||| single s.number, awaited := others,
                   timer := decide (others ≠ 0), changed := s.members.changed || decide (others ≠ 0) } := by
  unfold State.joinAdmitted
  simp only []
  split
  · rw [State.rim_decided]; rfl
  · rfl

@[simp] theorem State.rim_joinEntered (s : State) (others : StationSet) :
    (s.joinEntered others).rim = (s.joinAdmitted others).rim := by
  unfold State.joinEntered
  split
  · rw [State.rim_inTakenOrder, State.rim_takeUpWaiting]
  · rfl

theorem State.rim_admitJoiner (s : State) (j : Station) :
    (s.admitJoiner j).rim =
      { s.rim with present := s.members.present ||| single j, changed := true } := by
  unfold State.admitJoiner
  simp only []
  rw [State.rim_grantStep]
  rfl

theorem State.rim_ownLeave (s : State) :
    s.ownLeave.rim =
      { s.rim with state := .unjoined, decoder := { s.decoder with frozen := false },
                   present := 0, awaited := 0, timer := false } := by
  unfold State.ownLeave
  rw [State.rim_inTakenOrder, State.rim_dismissPool]
  simp only []
  split
  · rw [State.rim_decided]; rfl
  · rfl

theorem State.rim_drive (s : State) (pub : Publication) (r : Reply) (x : Option RecordTag) :
    (s.drive pub r x).rim = { s.rim with phase := .tenure pub none (replyCode r) x } := rfl

theorem State.rim_publish (s : State) (src : Source) (pub : Publication) :
    (s.publish src pub).rim =
      { s.rim with contention := none, reference := some s.number,
                   phase := .tenure pub (some src) s.ownReply none } := rfl

theorem State.rim_exhaustionRecall (s : State) (k : Kind) (index : Nat) :
    (s.exhaustionRecall k index).1.rim = s.rim := by
  unfold State.exhaustionRecall
  split
  · split
    · simp only []; rw [State.rim_updateLoan, State.rim_setPosition]
    · rfl
  · rfl

/-- An answer drives a reply of this station to the publication, and changes nothing else of the rim. -/
theorem State.rim_answer (s : State) (pub : Publication) :
    ∃ r x, (s.answer pub).rim = { s.rim with phase := .tenure pub none (replyCode r) x } := by
  unfold State.answer
  split
  · exact ⟨_, _, rfl⟩
  · split
    · split
      · rename_i index _
        unfold State.answerHome
        split
        · refine ⟨.retry, (s.exhaustionRecall pub.body.kind index).2, ?_⟩
          rw [State.rim_drive, State.rim_exhaustionRecall]
        · refine ⟨.noReply, none, ?_⟩
          rw [State.rim_drive, State.rim_reserveHome]
      · split
        · refine ⟨s.snoopReply pub.body.kind pub.line, none, ?_⟩
          unfold State.answerSnoop
          simp only []
          rw [State.rim_drive]
          split <;> simp
        · exact ⟨_, _, rfl⟩
    · exact ⟨_, _, rfl⟩

end Sys2Proof.Machine
end

