-- ==== Sys2Proof/Laws/RimStep.lean ====
section
/-! SUPPORT. Everything one command can do to the rim of the state: a chain of the
changes of RimStep, or one event of RimEvent.
A property of the rim that each change and each event keeps is kept by every command but a reset. -/
namespace Sys2Proof.Machine

/-- The outcome of a departure for the sets of the membership controller (R54). -/
def Rim.departed (r : Rim) (d : StationSet) : Rim :=
  { r with present := r.present &&& ~~~d, awaited := r.awaited &&& ~~~d, changed := true }

/-- What a departure decides at its end (R48, R52, R54). -/
def Rim.departEnd (r : Rim) (retained : Bool) : Rim :=
  if r.state = .settling ∧ r.awaited = 0 then { r with state := .member, awaited := 0, timer := false }
  else if r.state = .leaving ∧ retained = true then { r with state := .member }
  else r

/-- A READY of station p for this station (R48). -/
def Rim.readied (r : Rim) (p : Station) : Rim :=
  if r.awaited &&& ~~~(single p) = 0 then { r with state := .member, awaited := 0, timer := false }
  else { r with awaited := r.awaited &&& ~~~(single p) }

/-- The changes of the rim at a tally other than a JOIN's or an own LEAVE's, and at the posting of a
notice. -/
inductive RimTally : Rim → Rim → Prop where
  | notice (r : Rim) (n : Notice) (h : r.state ≠ .halted) (hl : r.faults.length < 2) :
      RimTally r { r with faults := r.faults ++ [n] }
  | halt (r : Rim) (h : r.state ≠ .halted) (hl : ¬ r.faults.length < 2) : RimTally r r.halted
  | depart (r : Rim) (h : r.state.replies = true) (d : StationSet) (hd : inSet d r.number = false)
      (l : List Notice) (hl : l.length ≤ 2) (retained : Bool) :
      RimTally r (({ r with faults := l } : Rim).departed d |>.departEnd retained)
  | departHalt (r : Rim) (h : r.state.replies = true) (d : StationSet) (l : List Notice)
      (hl : l.length ≤ 2) : RimTally r (({ r with faults := l } : Rim).departed d).halted
  | ready (r : Rim) (h : r.state = .settling) (p : Station) : RimTally r (r.readied p)

/-- The elementary changes of the rim. -/
inductive RimStep : Rim → Rim → Prop where
  | tally {a b : Rim} (h : RimTally a b) : RimStep a b
  | ackFault (r : Rim) : RimStep r { r with faults := [] }
  | ackMembership (r : Rim) : RimStep r { r with changed := false }
  | contend (r : Rim) (c : Option Class) : RimStep r { r with contention := c }
  | publish (r : Rim) (src : Source) (pub : Publication) (own : ReplyCode) :
      RimStep r { r with contention := none, reference := some r.number,
                         phase := .tenure pub (some src) own none }
  | observe (r : Rim) (pub : Publication) (drove : ReplyCode) (x : Option RecordTag)
      (h : pub.publisher ≠ r.number) :
      RimStep r { r with reference := some pub.publisher, phase := .tenure pub none drove x }
  | free (r : Rim) : RimStep r { r with phase := .free }
  | admitted (r : Rim) (h : r.state.replies = true) (j : Station) :
      RimStep r { r with present := r.present ||| single j, changed := true }
  | settled (r : Rim) (h : r.state = .settling) :
      RimStep r { r with state := .member, awaited := 0, timer := false }

/-- The changes of the rim that a request of the local processor or the tally of an own JOIN or LEAVE
makes by itself, one in a command. -/
inductive RimEvent : Rim → Rim → Prop where
  | join (r : Rim) (h : r.state = .unjoined) :
      RimEvent r { r with state := .joining, decoder := { r.decoder with frozen := true } }
  | table (r : Rim) (h : r.state = .unjoined) (w : WindowTable) (code : BitVec 3) :
      RimEvent r { r with decoder := { r.decoder with table := w, sizeCode := code } }
  | leave (r : Rim) (h : r.state = .member) : RimEvent r { r with state := .leaving }
  | joinRefused (r : Rim) (h : r.state = .joining) :
      RimEvent r { r with state := .unjoined, decoder := { r.decoder with frozen := false } }
  | joinAdmitted (r : Rim) (h : r.state = .joining) (others : StationSet) :
      RimEvent r { r with state := (if others = 0 then .member else .settling),
                          present := others ||| single r.number, awaited := others,
                          timer := decide (others ≠ 0), changed := r.changed || decide (others ≠ 0) }
  | ownLeave (r : Rim) (h : r.state = .leaving) :
      RimEvent r { r with state := .unjoined, decoder := { r.decoder with frozen := false },
                          present := 0, awaited := 0, timer := false }

/-- A chain of changes of the rim, each of which P allows. -/
inductive RimChain (P : Rim → Rim → Prop) : Rim → Rim → Prop where
  | refl (r : Rim) : RimChain P r r
  | tail {a b c : Rim} (h : RimChain P a b) (hs : P b c) : RimChain P a c

theorem RimChain.one {P : Rim → Rim → Prop} {a b : Rim} (h : P a b) : RimChain P a b :=
  .tail (.refl a) h

theorem RimChain.of_eq {P : Rim → Rim → Prop} {a b : Rim} (h : b = a) : RimChain P a b := by
  subst h; exact .refl _

theorem RimChain.trans {P : Rim → Rim → Prop} {a b c : Rim} (h1 : RimChain P a b)
    (h2 : RimChain P b c) : RimChain P a c := by
  induction h2 with
  | refl => exact h1
  | tail _ hs ih => exact .tail ih hs

/-- A property that every change keeps is kept by a chain. -/
theorem RimChain.keeps {P : Rim → Rim → Prop} {Q : Rim → Prop} (hQ : ∀ a b, P a b → Q a → Q b)
    {a b : Rim} (h : RimChain P a b) : Q a → Q b := by
  induction h with
  | refl => exact id
  | tail _ hs ih => exact fun ha => hQ _ _ hs (ih ha)

theorem RimChain.mono {P Q : Rim → Rim → Prop} (hPQ : ∀ a b, P a b → Q a b) {a b : Rim}
    (h : RimChain P a b) : RimChain Q a b := by
  induction h with
  | refl => exact .refl _
  | tail _ hs ih => exact .tail ih (hPQ _ _ hs)

/-- A chain of the changes of tallies is a chain of elementary changes. -/
theorem RimChain.step {a b : Rim} (h : RimChain RimTally a b) : RimChain RimStep a b :=
  h.mono fun _ _ => .tally

/-- What one command but a reset does to the rim: a chain of elementary changes, or one event, which the
end of the tenure under way may come before. -/
def RimCommand (a b : Rim) : Prop :=
  RimChain RimStep a b ∨ RimEvent a b ∨ RimEvent { a with phase := .free } b

/-- A property that every elementary change and every event keeps, and that the end of a tenure keeps,
is kept by a command. -/
theorem RimCommand.keeps {Q : Rim → Prop} (hS : ∀ a b, RimStep a b → Q a → Q b)
    (hE : ∀ a b, RimEvent a b → Q a → Q b) {a b : Rim} (h : RimCommand a b) (ha : Q a) : Q b := by
  rcases h with h | h | h
  · exact h.keeps hS ha
  · exact hE _ _ h ha
  · exact hE _ _ h (hS _ _ (.free a) ha)

end Sys2Proof.Machine
end

