-- ==== Sys2Proof/Laws/RimExec.lean ====
section
/-! SUPPORT. Every command changes the rim of the state by a chain of RimStep, and always answers a next
state. -/
namespace Sys2Proof.Machine

theorem State.faults_of_rim {s : State} {r : Rim} (h : s.rim = r) : s.faults = r.faults := by
  rw [← h]; rfl

theorem State.state_of_rim {s : State} {r : Rim} (h : s.rim = r) : s.state = r.state := by
  rw [← h]; rfl

theorem RimChain.post (s : State) (n : Notice) : RimChain RimTally s.rim (s.post n).rim := by
  rw [State.rim_post]
  split
  · exact .refl _
  · rename_i h
    split
    · rename_i hl; exact .one (.notice s.rim n h hl)
    · rename_i hl; exact .one (.halt s.rim h hl)

theorem RimChain.ifLive (s : State) (f : State → State)
    (h : s.state ≠ .halted → RimChain RimTally s.rim (f s).rim) : RimChain RimTally s.rim (s.ifLive f).rim := by
  rw [State.rim_ifLive]
  split
  · exact .refl _
  · rename_i hs; exact h hs

theorem RimCommand.chain {a b : Rim} (h : RimChain RimStep a b) : RimCommand a b := .inl h

theorem RimCommand.same {a b : Rim} (h : b = a) : RimCommand a b := .inl (.of_eq h)

theorem RimCommand.event {a b c : Rim} (h : RimEvent a c) (hb : b = c) : RimCommand a b :=
  .inr (.inl (hb ▸ h))

theorem RimCommand.dispatch (s : State) (t : Tag) (r : Request) :
    RimCommand s.rim (s.dispatch t r).rim := by
  cases r
  case apertureRead => exact .same (s.rim_decided t _ _)
  case apertureWrite offset w =>
    rcases s.rim_doApertureWrite t offset w with h | ⟨hs, a, b, h⟩
    · exact .same h
    · exact .event (.table s.rim hs a b) h
  case join =>
    rcases s.rim_doJoin t with h | ⟨hs, h⟩
    · exact .same h
    · exact .event (.join s.rim hs) h
  case leave =>
    rcases s.rim_doLeave t with h | ⟨hs, h⟩
    · exact .same h
    · exact .event (.leave s.rim hs) h
  case ackFault =>
    rcases s.rim_doAckFault t with h | h
    · exact .same h
    · exact .chain ((RimChain.one (.ackFault s.rim)).trans (.of_eq h))
  case ackMembership =>
    rcases s.rim_doAckMembership t with h | h
    · exact .same h
    · exact .chain ((RimChain.one (.ackMembership s.rim)).trans (.of_eq h))
  case flushAll => exact .same (s.rim_dispatchFlushAll t)
  case unknown => exact .same (s.rim_complete t _ _)
  all_goals exact .same (s.rim_dispatchPool t _ _)

theorem RimCommand.present (s : State) (r : Request) : RimCommand s.rim (s.present r).rim := by
  unfold State.present
  split
  · rename_i t _
    exact RimCommand.dispatch (s.opened t r) t r
  · exact .same rfl

theorem RimCommand.takeCompletion (s : State) : RimCommand s.rim s.takeCompletion.rim := by
  unfold State.takeCompletion
  split
  · exact .same rfl
  · rename_i t ts _
    simp only []
    split
    · exact .same rfl
    · rename_i r rs _
      have h := RimCommand.present { s with port :=
        { s.port with entries := s.port.entries.set t .free, completions := ts, presented := rs } } r
      exact h

theorem RimChain.contend (s : State) (others : List Contender) (void : Bool) :
    RimChain RimStep s.rim (s.contend others void).rim := by
  unfold State.contend
  split
  · exact .refl _
  · split
    · exact .one (.contend s.rim none)
    · rename_i c _
      split
      · exact .one (.contend s.rim (some c))
      · split
        · rename_i src pub _
          exact .one (.publish s.rim src pub s.ownReply)
        · exact .one (.contend s.rim (some c))

theorem RimChain.observe (s : State) (pub : Publication) : RimChain RimStep s.rim (s.observe pub).rim := by
  unfold State.observe
  split
  · exact .refl _
  · rename_i h
    have hp : pub.publisher ≠ s.number := by
      intro e; simp [e] at h
    simp only []
    split
    · obtain ⟨r, x, e⟩ := State.rim_answer { s with bus := { s.bus with reference := some pub.publisher } } pub
      rw [e]
      exact .one (.observe s.rim pub (replyCode r) x hp)
    · exact .one (.observe s.rim pub (replyCode .silent) none hp)

theorem State.rim_departEnd (s : State) : s.departEnd.rim = s.rim.departEnd false := by
  unfold State.departEnd
  split
  · rename_i h
    split
    · rename_i ha
      rw [State.rim_enterMember]
      simp [Rim.departEnd, State.rim, h, ha]
    · rename_i ha
      rw [Rim.departEnd, if_neg (fun hc => ha hc.2), if_neg (by simp)]
  · rename_i h
    rw [Rim.departEnd, if_neg (fun hc => h hc.1), if_neg (by simp)]

/-- What the notices of a departure make of the rim depends on the rim alone. -/
theorem State.rim_departNotices_congr (d : StationSet) (losses : Station → Nat) {s t : State}
    (h : s.rim = t.rim) : (s.departNotices d losses).rim = (t.departNotices d losses).rim := by
  unfold State.departNotices
  generalize allStations = l
  induction l generalizing s t with
  | nil => exact h
  | cons p l ih =>
    apply ih
    by_cases hc : (inSet d p && decide (0 < losses p)) = true
    · have h1 : s.state = t.state := congrArg Rim.state h
      have h2 : s.faults = t.faults := congrArg Rim.faults h
      simp only [hc, if_true]
      rw [State.rim_post, State.rim_post, h, h1, h2]
    · simp only [hc, Bool.false_eq_true, if_false]
      exact h

/-- Whether the notices of a departure halt the station depends on the fault record and on whether it is
halted already. -/
theorem State.departNotices_halts_congr (d : StationSet) (losses : Station → Nat) {s t : State}
    (hf : s.faults = t.faults) (hs : s.state = .halted ↔ t.state = .halted) :
    (s.departNotices d losses).state = .halted ↔ (t.departNotices d losses).state = .halted := by
  unfold State.departNotices
  generalize allStations = l
  induction l generalizing s t with
  | nil => exact hs
  | cons p l ih =>
    rw [List.foldl_cons, List.foldl_cons]
    by_cases hc : (inSet d p && decide (0 < losses p)) = true
    · simp only [hc, if_true]
      have hp : ∀ n, (s.post n).faults = (t.post n).faults ∧
          ((s.post n).state = .halted ↔ (t.post n).state = .halted) := by
        intro n
        unfold State.post
        by_cases hh : s.state = .halted
        · rw [if_pos hh, if_pos (hs.mp hh)]
          exact ⟨hf, hs⟩
        · rw [if_neg hh, if_neg (fun h => hh (hs.mpr h)), ← hf]
          by_cases hl : s.faults.length < 2
          · rw [if_pos hl, if_pos hl]
            exact ⟨rfl, hs⟩
          · rw [if_neg hl, if_neg hl]
            have hx (v : State) : v.halt.faults = v.faults := congrArg Rim.faults v.rim_halt
            exact ⟨(hx s).trans (hf.trans (hx t).symm), iff_of_true rfl rfl⟩
      exact ih (hp _).1 (hp _).2
    · simp only [hc, Bool.false_eq_true, if_false]
      exact ih hf hs

/-- R52 and R48 judge different states. -/
theorem Rim.judged_departEnd (r : Rim) (l : List Notice) (d : StationSet) (b : Bool) :
    ({ (r.departed d).judged b with faults := l } : Rim).departEnd false =
      (({ r with faults := l } : Rim).departed d).departEnd b := by
  unfold Rim.judged Rim.departEnd Rim.departed
  by_cases h : r.state = .leaving ∧ b = true
  · simp [h.1, h.2]
  · by_cases hl : r.state = .leaving
    · have hb : b = false := by simpa [hl] using h
      simp [hl, hb]
    · simp [hl]

/-- A departure does one of three things to the rim: nothing (nobody departed), its effects and its
end with at most two notices, or the halt. -/
theorem State.rim_depart (s : State) (d : StationSet) (hr : s.state.replies = true)
    (hf : s.faults.length ≤ 2) :
    (s.depart d).rim = s.rim ∨
    (∃ l b, l.length ≤ 2 ∧
      (s.depart d).rim = ((({ s.rim with faults := l } : Rim).departed d).departEnd b)) ∨
    ∃ l, l.length ≤ 2 ∧
      (s.depart d).rim = (({ s.rim with faults := l } : Rim).departed d).halted := by
  unfold State.depart
  split
  · exact .inl rfl
  have key : ∀ halts, ∃ b, (s.departEffects d halts).rim = (s.rim.departed d).judged (!halts && b) ∧
      (((s.departEffects d halts).departNotices d s.lossesTo).state = .halted ↔ s.departHalts d = true) := by
    intro halts
    obtain ⟨b, he⟩ := s.rim_departEffects d halts
    refine ⟨b, he, ?_⟩
    unfold State.departHalts
    rw [decide_eq_true_iff]
    have hn : s.state ≠ .halted := by intro e; rw [e] at hr; exact absurd hr (by decide)
    apply State.departNotices_halts_congr
    · rw [State.faults_of_rim he]
      unfold Rim.judged
      split <;> rfl
    · refine iff_of_false ?_ hn
      rw [State.state_of_rim he]
      unfold Rim.judged
      split
      · simp
      · exact hn
  simp only []
  split
  · rename_i hh
    obtain ⟨b, he, hs⟩ := key true
    have he : (s.departEffects d true).rim = s.rim.departed d := by simpa [Rim.judged] using he
    obtain ⟨h1, h2⟩ := (s.departEffects d true).rim_departNotices d s.lossesTo
      (by rw [State.faults_of_rim he]; exact hf)
    rw [State.rim_departNotices_congr d s.lossesTo (s.rim_inTakenOrder _)]
    rw [he] at h1
    rcases h1 with h1 | ⟨x, h1⟩
    · have := (State.state_of_rim h1).symm.trans (hs.mpr hh)
      rw [show s.state = .halted from this] at hr
      exact absurd hr (by decide)
    · have hx : ((s.departEffects d true).departNotices d s.lossesTo).faults = x := State.faults_of_rim h1
      exact .inr (.inr ⟨x, hx ▸ h2, h1⟩)
  · rename_i hh
    obtain ⟨b, he, hs⟩ := key false
    obtain ⟨h1, h2⟩ := (s.departEffects d false).rim_departNotices d s.lossesTo
      (by rw [State.faults_of_rim he]; unfold Rim.judged; split <;> exact hf)
    rw [State.rim_inTakenOrder, State.rim_departEnd]
    rcases h1 with h1 | ⟨x, h1⟩
    · rw [h1, he]
      exact .inr (.inl ⟨_, b, h2, Rim.judged_departEnd _ _ _ _⟩)
    · exact absurd (hs.mp (State.state_of_rim h1)) hh

theorem RimChain.depart (s : State) (d : StationSet) (hr : s.state.replies = true)
    (hf : s.faults.length ≤ 2) (hd : inSet d s.number = false) :
    RimChain RimTally s.rim (s.depart d).rim := by
  rcases s.rim_depart d hr hf with h | ⟨l, b, hl, h⟩ | ⟨l, hl, h⟩
  · exact .of_eq h
  · rw [h]; exact .one (.depart s.rim hr d hd l hl b)
  · rw [h]; exact .one (.departHalt s.rim hr d l hl)

theorem RimChain.mismatchCheck (s : State) (pub : Publication) (rd : Reading) (index : Nat) :
    RimChain RimTally s.rim (s.mismatchCheck pub rd index).rim := by
  unfold State.mismatchCheck
  split
  · split
    · split
      · exact (RimChain.of_eq (State.rim_updateLoan s index _)).trans (.post _ _)
      · exact .refl _
    · exact .refl _
  · exact .refl _

theorem RimChain.homeTally (s : State) (pub : Publication) (rd : Reading) (index : Nat) (effect : Bool) :
    RimChain RimTally s.rim (s.homeTally pub rd index effect).rim := by
  unfold State.homeTally
  split
  · unfold State.homeEffect
    refine (RimChain.mismatchCheck s pub rd index).trans (.ifLive _ _ fun _ => .of_eq ?_)
    simp only []
    split <;> simp
  · exact .of_eq s.rim_releaseHome

theorem RimChain.noteConflict (s : State) (l : LineAddr) (conflict : Bool) :
    RimChain RimTally s.rim (s.noteConflict l conflict).rim := by
  unfold State.noteConflict
  split
  · exact .post _ _
  · exact .refl _

@[simp] theorem State.rim_ownTally (s : State) (pub : Publication) (rd : Reading) (p : RecordTag) :
    (s.ownTally pub rd p).rim = s.rim := by
  unfold State.ownTally
  split
  · rfl
  · split
    · split
      · exact s.rim_failRecord p _ _
      · split <;> simp
    · rfl

theorem RimChain.lineTally (s : State) (pub : Publication) (own : Option Source) (rd : Reading)
    (mine rcl : Option RecordTag) : RimChain RimTally s.rim (s.lineTally pub own rd mine rcl).rim := by
  unfold State.lineTally
  simp only []
  refine (RimChain.of_eq (s.rim_exhaustionOutcome rcl (rd.silent pub.publisher))).trans ?_
  generalize s.exhaustionOutcome rcl (rd.silent pub.publisher) = u
  have hmid : ∀ v : State, RimChain RimTally u.rim v.rim →
      RimChain RimTally u.rim (v.ifLive fun s => match mine with
        | some p => s.closing fun s => s.ownTally pub rd p
        | none => s).rim := by
    intro v hv
    refine hv.trans (.ifLive _ _ fun _ => ?_)
    split
    · exact .of_eq (by simp)
    · exact .refl _
  apply hmid
  split
  · exact .homeTally _ _ _ _ _
  · split
    · exact .of_eq (by simp)
    · exact .refl _

theorem inSet_single (p q : Station) : inSet (single p) q = decide (p = q) := by
  revert p q; decide

theorem RimChain.readyTally (s : State) (pub : Publication) (own : Option Source) (target : Station)
    (rd : Reading) : RimChain RimTally s.rim (s.readyTally pub own target rd).rim := by
  unfold State.readyTally
  split
  · exact .of_eq (s.rim_withdraw _)
  · split
    · rename_i h
      have hs : s.state = .settling := by
        simp only [Bool.and_eq_true, decide_eq_true_eq] at h
        exact h.1.1.2
      refine RimChain.tail (.refl s.rim) ?_
      have := RimTally.ready s.rim hs pub.publisher
      simp only []
      split
      · rename_i h0
        have h0' : s.rim.awaited &&& ~~~(single pub.publisher) = 0 := h0
        rw [Rim.readied, if_pos h0'] at this
        rw [State.rim_enterMember]
        exact this
      · rename_i h0
        have h0' : ¬ s.rim.awaited &&& ~~~(single pub.publisher) = 0 := h0
        rw [Rim.readied, if_neg h0'] at this
        exact this
    · exact .refl _

/-- The effect of a tenure that is no JOIN of another station changes the rim as a tally may. -/
theorem RimChain.tenureEffect (s : State) (pub : Publication) (own : Option Source) (rd : Reading)
    (mine rcl : Option RecordTag) (hr : s.state.replies = true) (hf : s.faults.length ≤ 2)
    (hp : own = none → pub.publisher ≠ s.number) (hj : pub.body.kind ≠ .join ∨ own ≠ none) :
    RimChain RimTally s.rim (s.tenureEffect pub own rd mine rcl).rim := by
  unfold State.tenureEffect
  split
  · split
    · exact .refl _
    · exact .of_eq (s.rim_dataEffect pub own _)
  · rename_i hb
    split
    · exact .refl _
    · rename_i ho
      rcases hj with hj | hj
      · simp [hb, Body.kind] at hj
      · cases own <;> simp at ho hj
  · exact .readyTally _ _ _ _ _
  · split
    · exact .refl _
    · rename_i h
      unfold State.leaveTally
      split
      · refine .depart _ _ hr hf ?_
        rw [inSet_single]
        apply decide_eq_false
        apply hp
        cases own with
        | none => rfl
        | some x => simp at h
      · exact .refl _
  · exact .refl _
  · exact .lineTally _ _ _ _ _ _

/-- The effect of another station's JOIN. -/
theorem RimChain.joinTally (s : State) (j : Station) (rd : Reading) (hr : s.state.replies = true) :
    RimChain RimStep s.rim (s.joinTally j rd).rim := by
  unfold State.joinTally
  split
  · exact .refl _
  · exact (RimChain.one (.admitted s.rim hr j)).trans (.of_eq (s.rim_admitJoiner j))

theorem RimChain.tenureStep (s : State) (pub : Publication) (own : Option Source) (rd : Reading)
    (mine rcl : Option RecordTag) (hr : s.state.replies = true) (hf : s.faults.length ≤ 2)
    (hp : own = none → pub.publisher ≠ s.number) :
    RimChain RimStep s.rim (s.tenureEffect pub own rd mine rcl).rim := by
  by_cases hj : pub.body.kind ≠ .join ∨ own ≠ none
  · exact (RimChain.tenureEffect s pub own rd mine rcl hr hf hp hj).step
  · have ho : own = none := Classical.byContradiction fun h => hj (.inr h)
    have hk : pub.body.kind = .join := Classical.byContradiction fun h => hj (.inl h)
    subst ho
    unfold State.tenureEffect
    cases hb : pub.body with
    | join code image => exact .joinTally _ _ _ hr
    | _ => rw [hb] at hk; simp [Body.kind] at hk

theorem inSet_foldl (f : Station → Bool) (p : Station) (l : List Station) :
    ∀ acc : StationSet, inSet (l.foldl (fun acc q => if f q then acc ||| single q else acc) acc) p =
      (inSet acc p || (decide (p ∈ l) && f p)) := by
  induction l with
  | nil => intro acc; simp
  | cons q l ih =>
    intro acc
    rw [List.foldl_cons, ih]
    have hs : inSet (acc ||| single q) p = (inSet acc p || decide (q = p)) := by
      rw [← inSet_single]; simp [inSet]
    by_cases hq : q = p
    · subst hq
      by_cases hf : f q = true <;> simp [hf, hs]
    · have hq' : ¬ p = q := fun e => hq e.symm
      by_cases hf : f q = true <;> simp [hf, hs, hq, hq']

theorem inSet_setWhere (f : Station → Bool) (p : Station) : inSet (setWhere f) p = f p := by
  have hp : p ∈ allStations := by revert p; decide
  have h0 : inSet 0 p = false := by simp [inSet]
  unfold setWhere
  rw [inSet_foldl, h0]
  simp [hp]

/-- What a departure leaves of a station that takes part: its number, at most two notices, and a state
that takes part or HALTED. -/
theorem State.after_depart (s : State) (d : StationSet) (hr : s.state.replies = true)
    (hf : s.faults.length ≤ 2) :
    (s.depart d).number = s.number ∧ (s.depart d).faults.length ≤ 2 ∧
      ((s.depart d).state ≠ .halted → (s.depart d).state.replies = true) := by
  have key : ∀ r : Rim, (s.depart d).rim = r → r.number = s.number ∧ r.faults.length ≤ 2 ∧
      (r.state ≠ .halted → r.state.replies = true) →
      (s.depart d).number = s.number ∧ (s.depart d).faults.length ≤ 2 ∧
      ((s.depart d).state ≠ .halted → (s.depart d).state.replies = true) := by
    intro r h hq; subst h; exact hq
  rcases s.rim_depart d hr hf with h | ⟨l, b, hl, h⟩ | ⟨l, hl, h⟩
  · exact key _ h ⟨rfl, hf, fun _ => hr⟩
  · apply key _ h
    unfold Rim.departEnd
    split
    · exact ⟨rfl, hl, fun _ => rfl⟩
    · split
      · exact ⟨rfl, hl, fun _ => rfl⟩
      · exact ⟨rfl, hl, fun _ => hr⟩
  · exact key _ h ⟨rfl, hl, fun hh => absurd rfl hh⟩

theorem RimCommand.handleTally (s : State) (pub : Publication) (own : Option Source) (rd : Reading)
    (rcl : Option RecordTag) (hf : s.faults.length ≤ 2)
    (hp : own = none → pub.publisher ≠ s.number) :
    RimChain RimStep s.rim (s.handleTally pub own rd rcl).rim ∨
      RimEvent s.rim (s.handleTally pub own rd rcl).rim := by
  unfold State.handleTally
  split
  · split
    · rename_i h
      right
      unfold State.ownJoin
      split
      · rw [State.rim_joinRefused]; exact .joinRefused s.rim h
      · rw [State.rim_joinEntered, State.rim_joinAdmitted]; exact .joinAdmitted s.rim h _
    · exact .inl (.refl _)
  · split
    · exact .inl (.refl _)
    · rename_i h
      have hr : s.state.replies = true := by simpa using h
      split
      · split
        · rename_i hl; rw [State.rim_ownLeave]; exact .inr (.ownLeave s.rim hl)
        · exact .inl (.refl _)
      · have hd : inSet (s.departedAt rd) s.number = false := by
          unfold State.departedAt
          rw [inSet_setWhere]
          simp
        obtain ⟨hn, hl, ha⟩ := s.after_depart (s.departedAt rd) hr hf
        refine .inl ((RimChain.depart s _ hr hf hd).step.trans ?_)
        simp only []
        generalize s.standing pub own (s.departedAt rd) = mine
        refine RimChain.trans (b := ((s.depart (s.departedAt rd)).ifLive fun s =>
          (s.tenureEffect pub own rd mine rcl).pruneLists.walkCheck).rim) ?_ ?_
        · rw [State.rim_ifLive]
          split
          · exact .refl _
          · rename_i hh
            rw [State.rim_walkCheck, State.rim_pruneLists]
            exact .tenureStep _ _ _ _ _ _ (ha hh) hl (fun e => by rw [hn]; exact hp e)
        · refine (RimChain.of_eq (State.rim_jointly ..)).trans (RimChain.step (.ifLive _ _ fun _ => ?_))
          exact .noteConflict _ _ _

/-- What the rim must satisfy for a command to change it by RimStep alone. -/
def Rim.sound (r : Rim) : Prop :=
  r.faults.length ≤ 2 ∧
  match r.phase with
  | .tenure pub none _ _ => pub.publisher ≠ r.number
  | _ => True

theorem RimCommand.tally (s : State) (k : Kind) (t : Tally) (h : s.rim.sound) :
    RimCommand s.rim (s.tally k t).rim := by
  unfold State.tally
  split
  · exact .same rfl
  · rename_i pub own drove rcl hph
    split
    · have hp : own = none → pub.publisher ≠ s.number := by
        intro e
        have h2 := h.2
        subst e
        simp only [State.rim, hph] at h2
        exact h2
      rcases RimCommand.handleTally { s with bus := { s.bus with phase := .free } } pub own
        { kind := k, tally := t.set s.number drove } rcl h.1 hp with h | h
      · exact .inl ((RimChain.one (.free s.rim)).trans h)
      · exact .inr (.inr h)
    · exact .same rfl

theorem RimChain.settleExpiry (s : State) : RimChain RimStep s.rim s.settleExpiry.rim := by
  unfold State.settleExpiry
  split
  · rename_i h
    have hs : s.state = .settling := by
      simp only [Bool.and_eq_true, decide_eq_true_eq] at h; exact h.1
    refine (RimChain.post s
      { kind := .settleOverdue, station := allStations.find? (inSet s.members.awaited),
        line := none, count := some (setCount s.members.awaited) }).step.trans ?_
    rw [State.rim_ifLive]
    split
    · exact .refl _
    rename_i hh
    rw [State.rim_enterMember]
    refine .one (.settled _ ?_)
    have hp := s.rim_post
      { kind := .settleOverdue, station := allStations.find? (inSet s.members.awaited),
        line := none, count := some (setCount s.members.awaited) }
    rw [if_neg (by rw [hs]; decide)] at hp
    show State.state _ = _
    rw [State.state_of_rim hp]
    split
    · exact hs
    · rename_i hl
      exfalso
      apply hh
      rw [State.state_of_rim hp, if_neg hl]; rfl
  · exact .refl _

theorem RimChain.runEnd (s : State) (err : Bool) : RimChain RimTally s.rim (s.runEnd err).rim := by
  unfold State.runEnd
  split
  · exact .refl _
  · rename_i r _
    simp only []
    generalize hu : State.deliver _ r (s.runResult r err).1 = u
    have h1 : u.rim = s.rim := by rw [← hu, State.rim_deliver]; rfl
    have h2 : ∀ v : State, RimChain RimTally u.rim v.rim → RimChain RimTally s.rim (v.ifLive State.issueHeld).rim :=
      fun v hv => (RimChain.of_eq h1).trans (hv.trans (.ifLive _ _ fun _ => .of_eq v.rim_issueHeld))
    apply h2
    split
    · exact .post _ _
    · exact .refl _

theorem RimChain.deadlineExpiry (s : State) (p : RecordTag) :
    RimChain RimTally s.rim (s.deadlineExpiry p).rim := by
  unfold State.deadlineExpiry
  split
  · exact .refl _
  · split
    · exact .refl _
    · split
      · exact (RimChain.of_eq ((s.rim_closing _).trans (s.rim_failRecord p _ _))).trans (.post _ _)
      · exact .refl _

theorem RimChain.supplyReadEnd (s : State) (err : Bool) : RimChain RimTally s.rim (s.supplyReadEnd err).rim := by
  unfold State.supplyReadEnd
  split
  · rename_i e ws rest _
    refine (RimChain.of_eq (s.rim_setInFlight rest)).trans ?_
    unfold State.supplyReadDone
    split
    · split
      · refine RimChain.trans (.of_eq ?_) (.post _ _)
        rw [State.rim_correctLoan, State.rim_readySupply]
      · exact .of_eq (State.rim_readySupply _ _ _)
    · exact .refl _
  · exact .of_eq (s.rim_setInFlight _)
  · exact .refl _

theorem RimChain.localReadEnd (s : State) (err : Bool) : RimChain RimTally s.rim (s.localReadEnd err).rim := by
  unfold State.localReadEnd
  split
  · rename_i t lost ws rest _
    refine (RimChain.of_eq (s.rim_setInFlight rest)).trans ?_
    unfold State.localReadDone
    split
    · exact (RimChain.of_eq (State.rim_completeHome _ _ _ _)).trans (.post _ _)
    · exact .of_eq (State.rim_completeHome _ _ _ _)
  · exact .of_eq (s.rim_setInFlight _)
  · exact .refl _

theorem RimCommand.settled {s t : State} (h : RimCommand s.rim t.rim) :
    RimCommand s.rim t.settle.rim := by
  rw [State.rim_settle]; exact h

/-- A command but a reset changes the rim as RimCommand says. -/
theorem RimCommand.exec (c : Instr) (s t : State) (hc : isReset c = false) (hs : s.rim.sound)
    (h : Sys2Proof.Machine.exec c s = .next t) : RimCommand s.rim t.rim := by
  cases c <;> cases h
  case completionTake => exact .settled (.takeCompletion s)
  case contentionRound others void => exact .settled (.chain (.contend s others void))
  case publication pub => exact .settled (.chain (.observe s pub))
  case dataDeadlineExpiry p => exact .settled (.chain (RimChain.deadlineExpiry s p).step)
  case settleTimerExpiry => exact .settled (.chain (.settleExpiry s))
  case supplyReadEnd err => exact .settled (.chain (RimChain.supplyReadEnd s err).step)
  case localHomeReadEnd err => exact .settled (.chain (RimChain.localReadEnd s err).step)
  case memoryWriteEnd => exact .settled (.same s.rim_memoryWriteEnd)
  case operationRunEnd err => exact .settled (.chain (RimChain.runEnd s err).step)
  case positionGrant => exact .settled (.same s.rim_grantOne)
  case waitingRequestResumed t => exact .settled (.same (s.rim_resume t))
  case drainComplete => exact .settled (.same s.rim_drainEnd)
  case stationReset => simp [isReset] at hc
  case powerOnReset sn => simp [isReset] at hc
  all_goals first | exact .settled (.present s _) | exact .settled (.tally s _ _ hs)

/-- Every command answers a next state. -/
theorem exec_next (c : Instr) (s : State) : ∃ t, Sys2Proof.Machine.exec c s = .next t := by
  cases c <;> exact ⟨_, rfl⟩

/-- A step carries out the front command on the state with the queue's rest. -/
theorem step_cons (c : Instr) (rest : List Instr) (s : State) :
    step { s with pending := c :: rest } = Sys2Proof.Machine.exec c { s with pending := rest } := rfl

end Sys2Proof.Machine
end

