-- ==== Sys2Proof/Laws/Settle.lean ====
section
/-! SUPPORT. What the end of a step (State.settle) keeps and what it changes, part by part. -/
namespace Sys2Proof.Machine

theorem State.entry_complete (s : State) (t u : Tag) (st : Status) (ws : List Word) :
    (s.complete t st ws).entry u =
      if t = u ∧ (s.request t).isSome then .done st ws else s.entry u := by
  unfold State.complete State.request
  cases h : s.entry t with
  | free => simp
  | done _ _ => simp
  | opened r p =>
    by_cases htu : t = u
    · subst htu; simp [State.entry]
    · have : t.val ≠ u.val := fun e => htu (Fin.ext e)
      simp [State.entry, htu, this]

section kept
variable (s : State)

theorem State.drainSweep_port : s.drainSweep.port = s.port := by unfold State.drainSweep; split <;> rfl
theorem State.drainSweep_bus : s.drainSweep.bus = s.bus := by unfold State.drainSweep; split <;> rfl
theorem State.drainSweep_walk : s.drainSweep.copy.walk = s.copy.walk := by
  unfold State.drainSweep; split <;> rfl

theorem State.readyOffers_kept : s.readyOffers.port = s.port ∧ s.readyOffers.bank = s.bank ∧
    s.readyOffers.positions = s.positions ∧ s.readyOffers.copy = s.copy ∧
    s.readyOffers.supply = s.supply ∧ s.readyOffers.loans = s.loans ∧
    s.readyOffers.homeQueue = s.homeQueue ∧ s.readyOffers.freeNext = s.freeNext := by
  have h : ∀ (l : List ReadyEntry) (u v : State),
      l.foldl (fun s e => s.addOffer (.ready e.joiner)) u = v →
      v.port = u.port ∧ v.bank = u.bank ∧ v.positions = u.positions ∧ v.copy = u.copy ∧
      v.supply = u.supply ∧ v.loans = u.loans ∧ v.homeQueue = u.homeQueue ∧
      v.freeNext = u.freeNext := by
    intro l
    induction l with
    | nil => intro u v e; subst e; exact ⟨rfl, rfl, rfl, rfl, rfl, rfl, rfl, rfl⟩
    | cons e l ih => intro u v hv; exact ih (u.addOffer (.ready e.joiner)) v hv
  unfold State.readyOffers
  obtain ⟨h1, h2, h3, h4, h5, h6, h7, h8⟩ := h _ _ _ rfl
  exact ⟨h1, h2, h3, h4, h5, h6, h7, h8⟩

theorem State.complete_kept (t : Tag) (st : Status) (ws : List Word) :
    (s.complete t st ws).bank = s.bank ∧ (s.complete t st ws).positions = s.positions ∧
    (s.complete t st ws).copy = s.copy ∧ (s.complete t st ws).supply = s.supply ∧
    (s.complete t st ws).loans = s.loans ∧ (s.complete t st ws).homeQueue = s.homeQueue ∧
    (s.complete t st ws).freeNext = s.freeNext ∧ (s.complete t st ws).bus = s.bus ∧
    (s.complete t st ws).members = s.members ∧ (s.complete t st ws).port.presented = s.port.presented ∧
    s.port.completions <+: (s.complete t st ws).port.completions := by
  unfold State.complete
  split
  · exact ⟨rfl, rfl, rfl, rfl, rfl, rfl, rfl, rfl, rfl, rfl, List.prefix_append _ _⟩
  · exact ⟨rfl, rfl, rfl, rfl, rfl, rfl, rfl, rfl, rfl, rfl, List.prefix_refl _⟩

/-- The end of the flush walk changes the walk and the port alone. -/
theorem State.walkCheck_kept : s.walkCheck.bank = s.bank ∧ s.walkCheck.positions = s.positions ∧
    s.walkCheck.copy.slots = s.copy.slots ∧ s.walkCheck.supply = s.supply ∧
    s.walkCheck.loans = s.loans ∧ s.walkCheck.homeQueue = s.homeQueue ∧
    s.walkCheck.freeNext = s.freeNext ∧ s.walkCheck.bus = s.bus ∧ s.walkCheck.members = s.members ∧
    s.walkCheck.port.presented = s.port.presented ∧
    s.port.completions <+: s.walkCheck.port.completions := by
  unfold State.walkCheck
  split
  · split
    · rename_i w _ _
      obtain ⟨h1, h2, h3, h4, h5, h6, h7, h8, h9, h10, h11⟩ :=
        State.complete_kept { s with copy := { s.copy with walk := none } } w.tag
          (if w.contended then .contended else .ok) [BitVec.ofNat 32 s.retained]
      exact ⟨h1, h2, (congrArg CopyTable.slots h3).trans rfl, h4, h5, h6, h7, h8, h9, h10, h11⟩
    · exact ⟨rfl, rfl, rfl, rfl, rfl, rfl, rfl, rfl, rfl, rfl, List.prefix_refl _⟩
  · exact ⟨rfl, rfl, rfl, rfl, rfl, rfl, rfl, rfl, rfl, rfl, List.prefix_refl _⟩

/-- The end of the flush walk touches the entry of its own tag alone, and only an open one. -/
theorem State.walkCheck_entry (t : Tag) (h : (∀ w, s.copy.walk = some w → w.tag ≠ t) ∨ s.request t = none) :
    s.walkCheck.entry t = s.entry t := by
  unfold State.walkCheck
  split
  · rename_i w hw
    split
    · rw [State.entry_complete]
      split
      · rename_i hc
        rcases h with h | h
        · exact absurd hc.1 (h w hw)
        · obtain ⟨rfl, hc⟩ := hc
          simp only [State.request, State.entry] at h hc
          rw [h] at hc; exact absurd hc (by decide)
      · rfl
    · rfl
  · rfl

theorem State.settle_bank : s.settle.bank = s.bank := by
  have h : s.drainSweep.bank = s.bank := by unfold State.drainSweep; split <;> rfl
  exact ((State.walkCheck_kept _).1.trans (State.readyOffers_kept _).2.1).trans h

theorem State.settle_positions : s.settle.positions = s.positions := by
  have h : s.drainSweep.positions = s.positions := by unfold State.drainSweep; split <;> rfl
  exact ((State.walkCheck_kept _).2.1.trans (State.readyOffers_kept _).2.2.1).trans h

theorem State.settle_slots :
    s.settle.copy.slots = if s.state = .leaving then
      tableMap slotDefault (fun _ v => if v.state = .read then v.voided else v) s.copy.slots
    else s.copy.slots := by
  have h : s.drainSweep.copy.slots = if s.state = .leaving then
      tableMap slotDefault (fun _ v => if v.state = .read then v.voided else v) s.copy.slots
    else s.copy.slots := by unfold State.drainSweep; split <;> rfl
  exact ((State.walkCheck_kept _).2.2.1.trans
    (congrArg CopyTable.slots (State.readyOffers_kept _).2.2.2.1)).trans h

theorem State.settle_slotAt (k : Nat) (h : s.state ≠ .leaving) : s.settle.slotAt k = s.slotAt k := by
  unfold State.slotAt
  rw [State.settle_slots, if_neg h]

/-- In LEAVING a READ copy is VOID at the end of every step (R51). -/
theorem State.settle_slotAt_leaving (k : Nat) (h : s.state = .leaving) (hc : s.canonical) :
    s.settle.slotAt k = if (s.slotAt k).state = .read then (s.slotAt k).voided else s.slotAt k := by
  have hs : tableSorted s.copy.slots = true := by
    have := hc.2.1
    unfold tableWf at this
    simp only [Bool.and_eq_true] at this
    exact this.1
  unfold State.slotAt
  rw [State.settle_slots, if_pos h]
  exact tableGet_map slotDefault (fun _ v => if v.state = .read then v.voided else v) k
    (by simp [slotDefault]) _ hs

theorem State.settle_supply : s.settle.supply = s.supply := by
  have h : s.drainSweep.supply = s.supply := by unfold State.drainSweep; split <;> rfl
  exact ((State.walkCheck_kept _).2.2.2.1.trans (State.readyOffers_kept _).2.2.2.2.1).trans h

theorem State.settle_loans (h : s.state ≠ .leaving) : s.settle.loans = s.loans := by
  have h : s.drainSweep.loans = s.loans := by unfold State.drainSweep; rw [if_neg h]
  exact ((State.walkCheck_kept _).2.2.2.2.1.trans (State.readyOffers_kept _).2.2.2.2.2.1).trans h

theorem State.settle_homeQueue : s.settle.homeQueue = s.homeQueue := by
  have h : s.drainSweep.homeQueue = s.homeQueue := by unfold State.drainSweep; split <;> rfl
  exact ((State.walkCheck_kept _).2.2.2.2.2.1.trans (State.readyOffers_kept _).2.2.2.2.2.2.1).trans h

theorem State.settle_freeNext : s.settle.freeNext = s.freeNext := by
  have h : s.drainSweep.freeNext = s.freeNext := by unfold State.drainSweep; split <;> rfl
  exact ((State.walkCheck_kept _).2.2.2.2.2.2.1.trans (State.readyOffers_kept _).2.2.2.2.2.2.2).trans h

/-- The end of a step leaves the entry of a tag that is not open, and of an open one that no flush walk
runs for. -/
theorem State.settle_entry (t : Tag)
    (h : (∀ w, s.copy.walk = some w → w.tag ≠ t) ∨ s.request t = none) :
    s.settle.entry t = s.entry t := by
  have hp : s.drainSweep.pruneLists.readyOffers.port = s.port :=
    (State.readyOffers_kept _).1.trans s.drainSweep_port
  have hw : s.drainSweep.pruneLists.readyOffers.copy.walk =
      (s.copy.walk.map fun w => { w with slots := w.slots.filter fun k =>
        ((s.drainSweep.slotAt k).state = .held &&
          s.drainSweep.homePresent (s.drainSweep.slotAt k).line) }) := by
    rw [(State.readyOffers_kept _).2.2.2.1, ← s.drainSweep_walk]
    rfl
  have he : s.drainSweep.pruneLists.readyOffers.entry t = s.entry t := by
    unfold State.entry; rw [hp]
  have hr : s.drainSweep.pruneLists.readyOffers.request t = s.request t := by
    unfold State.request; rw [he]
  have := State.walkCheck_entry s.drainSweep.pruneLists.readyOffers t (by
    rcases h with h | h
    · left
      intro w hw'
      rw [hw] at hw'
      cases hs : s.copy.walk with
      | none => rw [hs] at hw'; cases hw'
      | some w0 =>
        rw [hs] at hw'
        cases hw'
        exact h w0 hs
    · right; rw [hr]; exact h)
  exact this.trans he

/-- A completion stays a completion. -/
theorem State.settle_done (t : Tag) (st : Status) (ws : List Word) (h : s.entry t = .done st ws) :
    s.settle.entry t = .done st ws := by
  rw [State.settle_entry s t (.inr (by unfold State.request; rw [h])), h]

theorem State.settle_presented : s.settle.port.presented = s.port.presented := by
  have h : (State.readyOffers _).port = s.port :=
    (State.readyOffers_kept s.drainSweep.pruneLists).1.trans s.drainSweep_port
  exact (State.walkCheck_kept _).2.2.2.2.2.2.2.2.2.1.trans (congrArg LocalPort.presented h)

/-- The completions made before the end of a step stay, in their order. -/
theorem State.settle_completions : s.port.completions <+: s.settle.port.completions := by
  have h : s.drainSweep.pruneLists.readyOffers.port = s.port :=
    (State.readyOffers_kept s.drainSweep.pruneLists).1.trans s.drainSweep_port
  have := (State.walkCheck_kept s.drainSweep.pruneLists.readyOffers).2.2.2.2.2.2.2.2.2.2
  rw [h] at this
  exact this

/-- The offers of the step join the others, and none is left fresh (R21). -/
theorem State.settle_fresh : s.settle.bus.fresh = [] := rfl

end kept

end Sys2Proof.Machine
end

