-- ==== Sys2Proof/Laws/Slots.lean ====
section
/-! SUPPORT. Copy slots, one by one, after the operations on the copy table: storing a slot, refreshing a
way, a line's slot. -/
namespace Sys2Proof.Machine

theorem State.canonical.slotsSorted {s : State} (hc : s.canonical) :
    tableSorted s.copy.slots = true := by
  have := hc.2.1
  unfold tableWf at this
  simp only [Bool.and_eq_true] at this
  exact this.1

theorem State.canonical.loansSorted {s : State} (hc : s.canonical) : tableSorted s.loans = true := by
  have := hc.2.2
  unfold tableWf at this
  simp only [Bool.and_eq_true] at this
  exact this.1

theorem State.slotAt_setSlot (s : State) (k j : Nat) (v : Slot) (hc : s.canonical) :
    (s.setSlot k v).slotAt j = if j = k then v else s.slotAt j := by
  unfold State.setSlot State.slotAt
  by_cases h : j = k
  · subst h; rw [if_pos rfl]; exact tableGet_set_self slotDefault j v _ hc.slotsSorted
  · rw [if_neg h]; exact tableGet_set_other slotDefault k j v _ h

theorem State.loanWay_setLoanWay (s : State) (k j : Nat) (v : LoanWay) (hc : s.canonical) :
    (s.setLoanWay k v).loanWay j = if j = k then v else s.loanWay j := by
  unfold State.setLoanWay State.loanWay
  by_cases h : j = k
  · subst h; rw [if_pos rfl]; exact tableGet_set_self loanDefault j v _ hc.loansSorted
  · rw [if_neg h]; exact tableGet_set_other loanDefault k j v _ h

/-- A slot of the set after way k is refreshed (R62). -/
def Slot.refreshed (v : Slot) (k j : Nat) (old : Fin 4) : Slot :=
  if j = k then { v with rank := 0 } else if v.rank < old then { v with rank := v.rank + 1 } else v

theorem slotAt_refreshFold (k : Nat) (old : Fin 4) (l : List Nat) : l.Nodup → ∀ s : State, s.canonical →
    ∀ j, (l.foldl (fun s j =>
      let v := s.slotAt j
      if j = k then s.setSlot j { v with rank := 0 }
      else if v.rank < old then s.setSlot j { v with rank := v.rank + 1 }
      else s) s).slotAt j = if j ∈ l then (s.slotAt j).refreshed k j old else s.slotAt j := by
  induction l with
  | nil => intro _ s _ j; rfl
  | cons i l ih =>
    intro hn s hc j
    have hn' := List.nodup_cons.mp hn
    rw [List.foldl_cons]
    have key : ∀ u : State, u.canonical →
        (∀ j, u.slotAt j = if j = i then (s.slotAt i).refreshed k i old else s.slotAt j) →
        (l.foldl (fun s j =>
          let v := s.slotAt j
          if j = k then s.setSlot j { v with rank := 0 }
          else if v.rank < old then s.setSlot j { v with rank := v.rank + 1 }
          else s) u).slotAt j = if j ∈ i :: l then (s.slotAt j).refreshed k j old else s.slotAt j := by
      intro u hu hs
      rw [ih hn'.2 u hu j, hs j]
      by_cases hj : j = i
      · subst hj; simp [hn'.1]
      · by_cases hl : j ∈ l <;> simp [hj, hl]
    apply key
    · simp only []
      split
      · exact State.canonical_setSlot s _ _ hc
      · split
        · exact State.canonical_setSlot s _ _ hc
        · exact hc
    · intro j
      simp only [Slot.refreshed]
      split
      · rename_i h; rw [State.slotAt_setSlot _ _ _ _ hc]
      · split
        · rw [State.slotAt_setSlot _ _ _ _ hc]
        · by_cases hj : j = i
          · subst hj; rw [if_pos rfl]
          · rw [if_neg hj]

/-- Every slot after way k is refreshed (R62): in the set of k the ranks move, and nothing else. -/
theorem State.slotAt_refreshSlot (s : State) (k j : Nat) (hc : s.canonical) :
    (s.refreshSlot k).slotAt j =
      if j ∈ slotMates k then (s.slotAt j).refreshed k j (s.slotAt k).rank else s.slotAt j := by
  unfold State.refreshSlot
  exact slotAt_refreshFold k (s.slotAt k).rank (slotMates k) (by unfold slotMates; simp) s hc j

theorem mem_slotMates (k : Nat) : k ∈ slotMates k := by
  unfold slotMates
  simp only [List.mem_cons, List.not_mem_nil, or_false]
  omega

theorem State.slotAt_refreshSlot_self (s : State) (k : Nat) (hc : s.canonical) :
    (s.refreshSlot k).slotAt k = { s.slotAt k with rank := 0 } := by
  rw [State.slotAt_refreshSlot s k k hc, if_pos (mem_slotMates k), Slot.refreshed, if_pos rfl]

/-- A refreshed way leaves every other slot but for ranks in its set. -/
theorem State.sameCopiesBut_refreshSlot (s : State) (k : Nat) (hc : s.canonical) :
    s.sameCopiesBut (s.refreshSlot k) k := by
  intro j hj
  rw [State.slotAt_refreshSlot s k j hc]
  split
  · rename_i hm
    unfold Slot.refreshed
    rw [if_neg hj]
    split <;> exact ⟨rfl, rfl, rfl, rfl, rfl, fun h => absurd hm h⟩
  · exact ⟨rfl, rfl, rfl, rfl, rfl, fun _ => rfl⟩

theorem State.slotOf_some {s : State} {l : LineAddr} {k : Nat} (h : s.slotOf l = some k) :
    k ∈ slotsOf l ∧ (s.slotAt k).state ≠ .void ∧ (s.slotAt k).line = l := by
  unfold State.slotOf at h
  have h1 := List.mem_of_find?_eq_some h
  have h2 := List.find?_some h
  simp only [Bool.and_eq_true, decide_eq_true_eq] at h2
  exact ⟨h1, h2.1, h2.2⟩

end Sys2Proof.Machine
end

