-- ==== Sys2Proof/Laws/Port.lean ====
section
/-! SUPPORT. The local request queue: the entry and the outcome of a tag after each operation of the port,
and what the taking of a request leaves for its dispatch. -/
namespace Sys2Proof.Machine

theorem State.sameStation_of_rim {s u : State} (h : u.rim = s.rim) : s.sameStation u := by
  simp only [State.rim, Rim.mk.injEq] at h
  obtain ⟨_, h1, h2, h3, h4, _, h6, h7, h8, h9, h10, h11⟩ := h
  exact ⟨h1, h2, h3, h4, h6, h7, h8, h9, h10, h11⟩

theorem State.number_of_rim {s : State} {r : Rim} (h : s.rim = r) : s.number = r.number := by
  rw [← h]; rfl

theorem State.decoder_of_rim {s : State} {r : Rim} (h : s.rim = r) : s.decoder = r.decoder := by
  rw [← h]; rfl

/-! ### Entries -/

theorem State.entry_setEntry (s : State) (t u : Tag) (e : PortEntry) :
    (s.setEntry t e).entry u = if u = t then e else s.entry u := by
  unfold State.setEntry State.entry
  by_cases h : u = t
  · subst h; simp
  · have : ¬ t.val = u.val := fun e => h (Fin.ext e.symm)
    simp [h, this]

theorem State.entry_of_freeTag {s : State} {t : Tag} (h : s.freeTag = some t) : s.entry t = .free := by
  unfold State.freeTag at h
  simpa using List.find?_some h

theorem State.entry_opened (s : State) (t u : Tag) (r : Request) :
    (s.opened t r).entry u = if u = t then .opened r (startProgress r) else s.entry u :=
  s.entry_setEntry t u (.opened r (startProgress r))

theorem State.request_of_entry {s : State} {t : Tag} {r : Request} {p : Progress}
    (h : s.entry t = .opened r p) : s.request t = some r := by
  unfold State.request; rw [h]

theorem State.progress_of_entry {s : State} {t : Tag} {r : Request} {p : Progress}
    (h : s.entry t = .opened r p) : s.progress t = some p := by
  unfold State.progress; rw [h]

/-- A request that waits for a way may be due now; every other entry stays (R77). -/
theorem State.entry_wayLeft (s : State) (k : Nat) (t : Tag) :
    (s.wayLeft k).entry t = (s.entry t).wayLeft (k / 4) := by
  unfold State.wayLeft State.entry
  simp

/-- A way that leaves its transient state changes no request. -/
theorem State.request_wayLeft (s : State) (k : Nat) (t : Tag) :
    (s.wayLeft k).request t = s.request t := by
  unfold State.request
  rw [State.entry_wayLeft]
  unfold PortEntry.wayLeft
  cases h : s.entry t with
  | free => rfl
  | done st ws => rfl
  | opened r p =>
    cases p with
    | setWay due => by_cases hs : requestSet r = some (k / 4) <;> simp [hs]
    | _ => rfl

/-- An entry that is not open stays as it is. -/
theorem State.entry_wayLeft_done {s : State} {t : Tag} {st : Status} {ws : List Word} (k : Nat)
    (h : s.entry t = .done st ws) : (s.wayLeft k).entry t = .done st ws := by
  rw [State.entry_wayLeft, h]
  rfl

theorem State.entry_setProgress (s : State) (t u : Tag) (p : Progress) :
    (s.setProgress t p).entry u =
      match s.entry u with
      | .opened r q => .opened r (if u = t then p else q)
      | e => e := by
  unfold State.setProgress
  cases h : s.entry t with
  | free =>
    simp only []
    by_cases hu : u = t
    · subst hu; rw [h]
    · cases s.entry u <;> simp [hu]
  | done st ws =>
    simp only []
    by_cases hu : u = t
    · subst hu; rw [h]
    · cases s.entry u <;> simp [hu]
  | opened r q =>
    simp only []
    rw [State.entry_setEntry]
    by_cases hu : u = t
    · subst hu; simp [h]
    · cases s.entry u <;> simp [hu]

/-- An entry that is open completes when its completion is made. -/
theorem State.entry_complete_self {s : State} {t : Tag} {r : Request} {p : Progress} (st : Status)
    (ws : List Word) (h : s.entry t = .opened r p) : (s.complete t st ws).entry t = .done st ws := by
  rw [State.entry_complete, if_pos ⟨rfl, by rw [State.request_of_entry h]; rfl⟩]

theorem State.entry_complete_other (s : State) {t u : Tag} (st : Status) (ws : List Word) (h : t ≠ u) :
    (s.complete t st ws).entry u = s.entry u := by
  rw [State.entry_complete, if_neg (fun hc => h hc.1)]

/-- The tags of a list that are open complete, the others stay. -/
theorem State.entry_completeAll (ts : List Tag) (st : Status) (u : Tag) : ∀ s : State,
    (s.completeAll ts st).entry u =
      if u ∈ ts ∧ (s.request u).isSome then .done st [] else s.entry u := by
  induction ts with
  | nil => intro s; simp [State.completeAll]
  | cons t ts ih =>
    intro s
    have := ih (s.complete t st [])
    unfold State.completeAll at this ⊢
    rw [List.foldl_cons, this]
    have hr : (s.complete t st []).request u =
        if t = u ∧ (s.request t).isSome then none else s.request u := by
      by_cases hc : t = u ∧ (s.request t).isSome = true
      · rw [if_pos hc]
        unfold State.request
        rw [State.entry_complete, if_pos hc]
      · rw [if_neg hc]
        unfold State.request
        rw [State.entry_complete, if_neg hc]
    rw [hr, State.entry_complete]
    by_cases htu : t = u
    · subst htu
      cases s.request t <;> simp
    · have : ¬ u = t := fun e => htu e.symm
      simp [htu, this]

/-! ### The command stream (R163) -/

theorem State.outcome_complete (s : State) (t u : Tag) (st : Status) (ws : List Word)
    (h : t = u → s.outcome u = some (st, ws)) : (s.complete t st ws).outcome u = s.outcome u := by
  by_cases hc : t = u ∧ (s.request t).isSome = true
  · rw [h hc.1]
    unfold State.outcome
    rw [State.entry_complete, if_pos hc]
  · unfold State.outcome
    rw [State.entry_complete, if_neg hc]

/-- A completion that the stream makes has the outcome that was decided. -/
theorem outcome_streamFlushFrom (u : Tag) (ts : List Tag) : ∀ s : State,
    (streamFlushFrom ts s).outcome u = s.outcome u := by
  induction ts with
  | nil => intro s; rfl
  | cons t ts ih =>
    intro s
    unfold streamFlushFrom
    split
    · rename_i st ws hp
      rw [ih]
      apply State.outcome_complete
      intro e
      subst e
      unfold State.progress at hp
      unfold State.outcome
      split at hp
      · rename_i h; rw [h]; cases hp; rfl
      · cases hp
    · rfl
    · exact ih s

/-- The stream's completions leave every entry that is not a decided member of it. -/
theorem entry_streamFlushFrom (u : Tag) (ts : List Tag) : ∀ s : State,
    (∀ o, s.progress u ≠ some (.stream (some o))) → (streamFlushFrom ts s).entry u = s.entry u := by
  induction ts with
  | nil => intro s _; rfl
  | cons t ts ih =>
    intro s h
    unfold streamFlushFrom
    split
    · rename_i st ws hp
      have htu : t ≠ u := by
        intro e; subst e; exact h _ hp
      have he := s.entry_complete_other st ws htu
      rw [ih]
      · exact he
      · intro o; unfold State.progress; rw [he]; exact h o
    · rfl
    · exact ih s h

theorem State.outcome_decided (s : State) (t : Tag) (st : Status) (ws : List Word) {r : Request}
    {p : Progress} (h : s.entry t = .opened r p) : (s.decided t st ws).outcome t = some (st, ws) := by
  unfold State.decided State.streamFlush
  rw [outcome_streamFlushFrom]
  unfold State.outcome
  rw [State.entry_setProgress, h]
  simp

/-- The outcome of a tag survives the end of a step, when no flush walk runs for it. -/
theorem State.outcome_settle (s : State) (t : Tag) (h : s.walkApart t ∨ s.request t = none) :
    s.settle.outcome t = s.outcome t := by
  unfold State.outcome
  rw [State.settle_entry s t h]

/-! ### The taking of a request (R160) -/

theorem State.earlier_opened (s : State) (t : Tag) (r : Request) :
    (s.opened t r).earlier t = s.earlier t := by
  show (s.port.taken ++ [t]).takeWhile (· ≠ t) = s.port.taken.takeWhile (· ≠ t)
  rw [List.takeWhile_append]
  split
  · rename_i h
    have : s.port.taken.takeWhile (· ≠ t) = s.port.taken := by
      apply (List.takeWhile_prefix _).eq_of_length h
    rw [this]
    simp
  · rfl

theorem ne_of_mem_takeWhile {t u : Tag} {l : List Tag} (h : u ∈ l.takeWhile (· ≠ t)) : u ≠ t := by
  induction l with
  | nil => simp at h
  | cons a l ih =>
    rw [List.takeWhile_cons] at h
    split at h
    · rename_i ha
      rcases List.mem_cons.mp h with h | h
      · subst h; simpa using ha
      · exact ih h
    · simp at h

theorem State.ne_of_mem_earlier {s : State} {t u : Tag} (h : u ∈ s.earlier t) : u ≠ t :=
  ne_of_mem_takeWhile h

theorem State.mem_taken_of_mem_earlier {s : State} {t u : Tag} (h : u ∈ s.earlier t) :
    u ∈ s.port.taken := (List.takeWhile_prefix _).subset h

/-- A request on a free line is not held back at its taking. -/
theorem State.heldBack_opened (s : State) (t : Tag) (r : Request) (l : LineAddr)
    (h : s.lineFree l = true) : (s.opened t r).heldBack t l = false := by
  unfold State.heldBack
  rw [State.earlier_opened, List.any_eq_false]
  intro u hu
  rw [State.entry_opened, if_neg (State.ne_of_mem_earlier hu)]
  unfold State.lineFree at h
  have := (List.all_eq_true.mp h) u (State.mem_taken_of_mem_earlier hu)
  split
  · rename_i he
    rw [he] at this
    rename_i p
    cases hp : p.unplaced <;> simp_all
  · simp

theorem State.windowCheck_opened (s : State) (t : Tag) (r q : Request) (a : Word) :
    (s.opened t r).windowCheck q a = s.windowCheck q a := rfl

theorem State.resolve_opened (s : State) (t : Tag) (r : Request) (a : Nat) :
    (s.opened t r).resolve a = s.resolve a := rfl

/-- A command of the local processor presents its request and ends the step. -/
theorem exec_present {c : Instr} {r : Request} (s : State) (h : requestOf c = some r) :
    exec c s = .next (s.present r).settle := by
  cases c <;> cases h <;> rfl

theorem State.present_taken {s : State} {t : Tag} (r : Request) (h : s.freeTag = some t) :
    s.present r = (s.opened t r).dispatch t r := by
  unfold State.present; rw [h]

/-- A window check that passes names the line of the address and the resolution of it. -/
theorem State.windowCheck_ok {s : State} {r : Request} {a : Word} {res : Resolved}
    (h : s.windowCheck r a = .ok res) : s.resolve a.toNat = some res ∧ res.line = lineOfAddr a := by
  unfold State.windowCheck at h
  split at h
  · cases h
  · rename_i v hv
    have hl : v.line = lineOfAddr a := by
      unfold State.resolve at hv
      split at hv
      · cases hv
      · cases hv; rfl
    split at h
    · cases h
    · split at h
      · cases h
      · split at h
        · cases h
        · cases h; exact ⟨hv, hl⟩

end Sys2Proof.Machine
end

