-- ==== Sys2Proof/Laws/TakeUp.lean ====
section
/-! SUPPORT. What taking up work inside a step leaves alone, and when it does nothing (R40, R48, R76, R102). -/
namespace Sys2Proof.Machine

/-! ### The supply queue is not touched -/

@[simp] theorem State.supply_takeUp (s : State) (ls : List LineAddr) (t : Tag) :
    (s.takeUp ls t).supply = s.supply := by
  unfold State.takeUp
  (repeat' split) <;> simp

@[simp] theorem State.supply_takeUpLines (s : State) (ls : List LineAddr) :
    (s.takeUpLines ls).supply = s.supply :=
  supply_foldl _ (fun s t => s.supply_takeUp ls t) _ _

@[simp] theorem State.supply_tellParties (s u : State) : (s.tellParties u).supply = u.supply := by
  unfold State.tellParties
  split
  · show ((u.drainReads.pruneLists.takeUpLines (s.closedLines u)).pruneLists.walkCheck).supply = u.supply
    rw [State.supply_walkCheck, State.supply_pruneLists, State.supply_takeUpLines, State.supply_pruneLists,
      State.supply_drainReads]
  · rfl

@[simp] theorem State.supply_closing (s : State) (f : State → State) : (s.closing f).supply = (f s).supply :=
  s.supply_tellParties (f s)

@[simp] theorem State.supply_takeUpWaiting (s : State) : s.takeUpWaiting.supply = s.supply := by
  unfold State.takeUpWaiting
  apply supply_foldl
  intro s t
  split <;> simp

/-! ### When nothing waits, nothing is taken up -/

theorem foldl_id {α β : Type} (f : β → α → β) (b : β) (l : List α) (h : ∀ a ∈ l, f b a = b) :
    l.foldl f b = b := by
  induction l with
  | nil => rfl
  | cons a l ih =>
    rw [List.foldl_cons, h a (List.mem_cons_self ..)]
    exact ih fun x hx => h x (List.mem_cons_of_mem _ hx)

theorem State.queuedOn_quiet {s : State} {ls : List LineAddr} (h : ∀ l ∈ ls, s.quiet l) (t : Tag) :
    s.queuedOn ls t = false := by
  unfold State.queuedOn
  split
  · rename_i e he
    have hq := List.find?_some he
    split
    · rename_i l hl
      refine Bool.eq_false_iff.mpr fun hm => ?_
      simp only [List.contains_eq_mem, decide_eq_true_eq] at hm
      revert hq hl
      cases hx : s.homeQueue.entries[e] with
      | request l' u c =>
        intro _ hl
        simp only [HomeEntry.line, Option.some.injEq] at hl
        exact (h l hm).2 e l' u c hx hl
      | _ => intro hq; simp at hq
    · rfl
  · rfl

/-- On quiet lines nothing is taken up. -/
theorem State.takeUp_quiet {s : State} {ls : List LineAddr} (h : ∀ l ∈ ls, s.quiet l) (t : Tag) :
    s.takeUp ls t = s := by
  unfold State.takeUp
  rw [State.queuedOn_quiet h t]
  simp only [Bool.false_and, Bool.false_eq_true, if_false]
  split
  · rename_i r he
    split
    · rename_i l hl
      refine if_neg fun hm => ?_
      simp only [List.contains_eq_mem, decide_eq_true_eq] at hm
      exact (h l hm).1 t r he hl
    · rfl
  · rfl

theorem State.takeUpLines_quiet {s : State} {ls : List LineAddr} (h : ∀ l ∈ ls, s.quiet l) :
    s.takeUpLines ls = s :=
  foldl_id _ s _ fun t _ => State.takeUp_quiet h t

/-- Where no record closes, the parties are told nothing. -/
theorem State.tellParties_none {s u : State} (h : s.closedLines u = []) : s.tellParties u = u := by
  unfold State.tellParties
  rw [h]
  simp

/-- A record whose line still has one is not closed (R84). -/
theorem State.closedLines_none {s u : State}
    (h : ∀ p r, s.recordAt p = some r → (u.recordOf r.line).isSome = true) : s.closedLines u = [] := by
  unfold State.closedLines
  rw [List.flatMap_eq_nil_iff]
  intro p _
  split
  · rename_i r hr
    rw [if_pos (h p r hr)]
  · rfl

/-- A station that takes part in no line takes nothing up. -/
theorem State.tellParties_idle {s u : State} (h : u.takesUp = false) : s.tellParties u = u := by
  unfold State.tellParties
  rw [h]
  simp

theorem State.takeUpWaiting_none {s : State} (h : s.noneWaits) : s.takeUpWaiting = s :=
  foldl_id _ s _ fun t _ => if_neg (h t)

theorem State.enterMember_none {s : State} (h : s.noneWaits) : s.enterMember = s.becomeMember :=
  State.takeUpWaiting_none (s := s.becomeMember) h

/-! ### An abandoned leave (R52) -/

/-- An abandoned leave makes the station MEMBER and stops the drain where it stands: copies, records, loan
entries, queues and bank are as they were. -/
theorem State.abandonLeave_stands (s : State) :
    s.abandonLeave.state = .member ∧ s.abandonLeave.copy = s.copy ∧ s.abandonLeave.positions = s.positions ∧
    s.abandonLeave.loans = s.loans ∧ s.abandonLeave.homeQueue = s.homeQueue ∧
    s.abandonLeave.supply = s.supply ∧ s.abandonLeave.bank = s.bank := by
  unfold State.abandonLeave
  simp only []
  split
  · exact ⟨congrArg Rim.state (State.rim_decided ..), State.copy_decided .., State.positions_decided ..,
      State.loans_decided .., State.homeQueue_decided .., State.supply_decided .., State.bank_decided ..⟩
  · exact ⟨rfl, rfl, rfl, rfl, rfl, rfl, rfl⟩

/-- R52 is judged: the leave is abandoned in a LEAVING station left with a HELD slot of an absent home, and
nothing happens in any other. -/
theorem State.judgeLeave_cases (s : State) :
    (s.state = .leaving ∧ 0 < s.retainedHeld ∧ s.judgeLeave = s.abandonLeave) ∨
    ((s.state = .leaving → s.retainedHeld = 0) ∧ s.judgeLeave = s) := by
  unfold State.judgeLeave
  split
  · rename_i h
    have h := by simpa using h
    exact .inl ⟨h.1, Nat.pos_of_ne_zero h.2, rfl⟩
  · rename_i h
    exact .inr ⟨by simpa using h, rfl⟩

/-- Outside LEAVING the parties that are told find the slots as the closing left them. -/
theorem State.drainReads_idle {s : State} (h : s.state ≠ .leaving) : s.drainReads = s := if_neg h

/-! ### The exhaustion recall and the READY, where nothing waits -/

@[simp] theorem State.exhaustionOutcome_none (s : State) (b : Bool) : s.exhaustionOutcome none b = s := rfl

/-- With a publisher that is not silent, the recall is offered, and nothing else changes (R126). -/
theorem State.exhaustionOutcome_seen (s : State) (rcl : Option RecordTag) :
    ∃ fresh, s.exhaustionOutcome rcl false = { s with bus := { s.bus with fresh := fresh } } := by
  unfold State.exhaustionOutcome
  split
  · exact ⟨s.bus.fresh, rfl⟩
  · split
    · exact ⟨s.bus.fresh, rfl⟩
    · exact ⟨_, rfl⟩

/-- A READY in a station in which no request waits for MEMBER changes the membership and the offers alone
(R48). -/
theorem State.readyTally_none (s : State) (pub : Publication) (own : Option Source) (target : Station)
    (rd : Reading) (h : s.noneWaits) :
    ∃ st m b, s.readyTally pub own target rd = { s with state := st, members := m, bus := b } := by
  unfold State.readyTally
  split
  · exact ⟨_, _, _, rfl⟩
  · split
    · simp only []
      split
      · have he := State.enterMember_none (s := { s with members := { s.members with
            awaited := s.members.awaited &&& ~~~(single pub.publisher) } }) h
        rw [he]
        exact ⟨_, _, _, rfl⟩
      · exact ⟨_, _, _, rfl⟩
    · exact ⟨s.state, s.members, s.bus, rfl⟩

/-! ### What the tenure law gives at this station's own tally -/

/-- In a state that keeps the tenure law no reservation stands at the tally of this station's own tenure. -/
theorem State.tenureLaw.own_unreserved {s : State} {pub : Publication} {src : Source} {drove : ReplyCode}
    {z : Option RecordTag} (h : s.tenureLaw) (hp : s.bus.phase = .tenure pub (some src) drove z) :
    s.reservedSupply = none ∧ s.reservedHome = none := by
  constructor
  · apply List.find?_eq_none.mpr
    intro e _
    split
    · rename_i x k l g he
      obtain ⟨_, ⟨_, _, _, hq, _⟩, _⟩ := h.2.1 e x k l g he
      rw [hp] at hq
      simp at hq
    · simp
  · apply List.find?_eq_none.mpr
    intro e _
    split
    · rename_i x l g he
      obtain ⟨_, ⟨_, _, _, hq, _⟩, _⟩ := h.2.2.1 e x l g he
      rw [hp] at hq
      simp at hq
    · simp

/-- At a tally that reads no departure the record whose own tenure is tallied stands. -/
theorem State.standing_noneDeparted (s : State) (pub : Publication) (p : RecordTag) :
    s.standing pub (some (.offer (.record p))) 0 = some p := by
  have : s.homedIn 0 pub.line = false := by
    unfold State.homedIn
    split <;> simp [inSet]
  show (if s.homedIn 0 pub.line = true then none else some p) = some p
  rw [this]
  rfl

/-! ### A request that waits for a home queue entry -/

/-- While no home queue entry is free, a request that waits for one stays as it is (R140). -/
theorem State.resume_homeFull {s : State} {t : Tag} (hp : s.progress t = some .homeFull) (hf : s.freeHome = none) :
    s.resume t = s := by
  simp [State.resume, hp, hf]

/-! ### The flush walk -/

/-- With no walk under way none runs (R80). -/
theorem State.walkRuns_none {s : State} (h : s.copy.walk = none) : s.walkRuns = false := by
  simp [State.walkRuns, h]

/-- A walk starts with the slots to turn, no record open and no contention (R80). -/
theorem State.walk_beginWalk (s : State) (t : Tag) :
    (s.beginWalk t).copy.walk = some { tag := t, slots := s.walkSlots, records := [], contended := false } := by
  simp only [State.beginWalk, State.setProgress]
  split <;> rfl

/-! ### A WRITE_THROUGH's bytes in a supplying slot -/

/-- A tenure's bytes change a slot's words alone (R114). -/
theorem Slot.withBytes_words (v : Slot) (b : Body) : v.withBytes b = { v with words := (v.withBytes b).words } := by
  cases b <;> rfl

end Sys2Proof.Machine
end

