-- ==== Sys2Proof/Laws/Words.lean ====
section
/-! SUPPORT. The fields of port words as numbers, the requests they put in the queue, and the loan mismatch
as the home unit tests it. -/
namespace Sys2Proof

theorem portKind_toNat (w : Word) : (portKind w).toNat = w.toNat % 32 := by
  simp [portKind, BitVec.extractLsb'_toNat]

theorem portCount_toNat (w : Word) : (portCount w).toNat = w.toNat / 2 ^ 8 % 32 := by
  simp [portCount, BitVec.extractLsb'_toNat, Nat.shiftRight_eq_div_pow]

theorem portKind_eq (w : Word) : portKind w = BitVec.ofNat 5 w.toNat := by
  apply BitVec.eq_of_toNat_eq
  simp [portKind_toNat]

@[simp] theorem decodePort_nil : decodePort [] = none := rfl

@[simp] theorem decodePort_one (w : Word) : decodePort [w] = none := rfl

namespace Machine

theorem State.withPortWords_some {s : State} {ws : List Word} {c : Instr} (h : decodePort ws = some c) :
    s.withPortWords ws = { s with pending := s.pending ++ [c] } := by
  unfold State.withPortWords
  rw [h]

theorem State.withPortWords_none {s : State} {ws : List Word} (h : decodePort ws = none) :
    s.withPortWords ws = s := by
  unfold State.withPortWords
  rw [h]

/-- The home unit's test is the mismatch of the statements (R129). -/
theorem mismatched_iff (pub : Publication) (rd : Reading) (h : Station) :
    mismatched pub.body.kind pub.publisher (!rd.holders.isEmpty) h = true ↔ loanMismatch pub rd h := by
  unfold mismatched loanMismatch
  cases pub.body.kind <;> simp [List.isEmpty_iff]

/-- A station outside the pool with nothing of it left keeps what UNJOINED asks (R39). -/
theorem State.unjoinedLaw_of_state {s : State} (h : s.state ≠ .unjoined) : s.unjoinedLaw :=
  fun hs => absurd hs h

end Machine
end Sys2Proof
end

