-- ==== Sys2Proof/WellFormed.lean ====
section
/-! DEFINITION. Which terms of Instr spell a command: the operands within the ranges the formats of
the port and the bus can carry, and the publications an ED2408 can publish (R25 to R27, R180). -/
namespace Sys2Proof

/-- The operand words of a request are as many as its count carries (11_formats.md section 11.2). -/
def Request.wellFormed : Request → Bool
  | .write _ n _ ws => ws.length == n.toNat
  | .operation (.push _ _ n vs) => vs.length == n.toNat
  | .unknown code => code.toNat == 0 || 17 ≤ code.toNat
  | _ => true

/-- The values of a PUSH tenure are as many as its count (11_formats.md section 11.1). -/
def Operation.wellFormed : Operation → Bool
  | .push _ _ n vs => vs.length == n.toNat
  | _ => true

/-- A publication as the bus formats carry it (R25, R26): the direct read stays in its line, the
mask of a write-through names a word, a DATA carries its count of words, an unassigned code is one. -/
def Publication.wellFormed (p : Publication) : Bool :=
  match p.body with
  | .readDirect f n => 1 ≤ n.toNat && f.toNat + n.toNat ≤ 16
  | .writeThrough m _ _ _ => m ≠ 0
  | .operate op => op.wellFormed
  | .data d => d.words.length == d.count.toNat && d.source = p.publisher
  | .unassigned c => c.toNat == 0 || c.toNat == 15
  | _ => true

/-- The contenders of a round carry different numbers: no two slots of a rack share one
(00_scope.md section 2). -/
def contendersDistinct : List Contender → Bool
  | [] => true
  | c :: cs => cs.all (fun d => d.number ≠ c.number) && contendersDistinct cs

/-- A term of Instr spells a command. -/
def Instr.wellFormed : Instr → Bool
  | .write a n en ws => (Request.write a n en ws).wellFormed
  | .push d m n vs => (Request.operation (.push d m n vs)).wellFormed
  | .unknownRequestKind code => (Request.unknown code).wellFormed
  | .contentionRound others _ => contendersDistinct others
  | .publication pub => pub.wellFormed
  | .read .. | .condStore .. | .accumulate .. | .pop .. | .flushLine .. | .discardLine ..
  | .repairLine .. | .flushAll | .apertureRead .. | .apertureWrite .. | .join | .leave | .ackFault
  | .ackMembership | .completionTake | .fetchTally .. | .fetchOwnTally .. | .claimTally ..
  | .readDirectTally .. | .writeThroughTally .. | .operateTally .. | .returnTally ..
  | .releaseTally .. | .recallReadTally .. | .recallAllTally .. | .dataTally .. | .joinTally ..
  | .readyTally .. | .leaveTally .. | .unassignedKindTally .. | .dataDeadlineExpiry ..
  | .settleTimerExpiry | .supplyReadEnd .. | .localHomeReadEnd .. | .memoryWriteEnd
  | .operationRunEnd .. | .positionGrant | .waitingRequestResumed .. | .drainComplete
  | .stationReset | .powerOnReset .. => true

end Sys2Proof
end

