-- ==== Sys2Proof/Tests/Slice0.lean ====
section
/-! SUPPORT. Tests: terms that spell no command, the manual's worked values, commands on small states,
and for each statement with hypotheses a state and operands that meet them (with the fields of the
answer that the statement speaks of). -/
namespace Sys2Proof.Tests
open Sys2Proof.Machine

-- One theorem at a time: each waits for the kernel, and a thread for each would be many.
set_option Elab.async false

/-! ### Small states -/

/-- The command answers a next state, and it satisfies f. -/
def after (c : Instr) (s : State) (f : State → Bool) : Bool :=
  match exec c s with
  | .next u => f u
  | _ => false

/-- A run of two commands ends in a next state that satisfies f. -/
def after2 (c d : Instr) (s : State) (f : State → Bool) : Bool := after c s fun u => after d u f

/-- A valid window of 64 KiB that every station may write. -/
def win (base : Nat) (mode : Mode) (code : BitVec 2) (s0 s1 : Station) (home : Nat) : WindowEntry :=
  { valid := true, base := BitVec.ofNat 16 base, sizeCode := 0, mode := mode, stripeCode := code,
    stripes := #v[s0, s1, 0, 0, 0, 0, 0, 0], homeBase := BitVec.ofNat 12 home, writers := 0xffff }

/-- Station 1's table: COHERENT_WB striped over 1 and 2, COHERENT_WT and UNCACHED homed at 2, PRIVATE,
UNCACHED homed at 1. -/
def table : WindowTable :=
  ((((Decoder.reset.table.set 0 (win 0 .coherentWB 1 1 2 0)).set 1 (win 1 .coherentWT 0 2 0 0)).set 2
    (win 2 .uncached 0 2 0 0)).set 3 (win 3 .priv 0 0 0 1)).set 4 (win 4 .uncached 0 1 0 2)

/-- Station 1 with its table written, not joined. -/
def fresh : State :=
  { State.reset with number := 1, decoder := { table := table, sizeCode := 0, frozen := false } }

/-- Station 1, MEMBER of a pool with station 2. -/
def pool : State :=
  { fresh with
    state := .member, decoder := { fresh.decoder with frozen := true },
    members := { fresh.members with present := 0x6 } }

/-- Station 1 JOINING, its JOIN command taken with tag 0. -/
def joining : State :=
  { fresh with
    state := .joining, decoder := { fresh.decoder with frozen := true },
    port := { fresh.port with entries := fresh.port.entries.set 0 (.opened .join (.stream none)),
                              taken := [0] } }

/-- Station 1 SETTLING, awaiting stations 2 and 5. -/
def settling : State :=
  { pool with
    state := .settling,
    members := { pool.members with present := 0x26, awaited := 0x24, timer := true } }

/-- Station 1 LEAVING, its LEAVE command taken with tag 0. -/
def leaving : State :=
  { pool with
    state := .leaving,
    port := { pool.port with entries := pool.port.entries.set 0 (.opened .leave (.stream none)),
                             taken := [0] } }

/-- Station 1 HALTED, its record full. -/
def note : Notice := { kind := .tallyConflict, station := none, line := some 1, count := none }

/-- Station 1 HALTED with two notices. -/
def halted : State := { pool.halt with faults := [note, note] }

/-- A line of known words: word i is base + i. -/
def words (base : Nat) : Line := lineOf fun i => BitVec.ofNat 32 (base + i)

/-- Station 1 with a copy of line 1 (homed at 2) in slot 4. -/
def copyOf (st : SlotState) (dirty lost : Bool) : State :=
  pool.setSlot 4 { line := 1, state := st, dirty := dirty, lost := lost, rank := 2, words := words 0x100 }

/-- Station 1 with a line of a home outside the pool, line 3 homed at 2, in slot 12. -/
def alone (st : SlotState) : State :=
  let v : Slot := { line := 3, state := st, dirty := true, lost := false, rank := 0, words := words 0 }
  { pool.setSlot 12 v with
    members := { pool.members with present := 0x2 } }

/-- The state with a record in a position, its offer made. -/
def withRecord (s : State) (p : RecordTag) (r : Record) : State :=
  { s.setPosition p (.holding r) with bus := { s.bus with offers := s.bus.offers ++ [.record p] } }

/-- The state with the request r open under tag t. -/
def withRequest (s : State) (t : Tag) (r : Request) (p : Progress) : State :=
  { s with port := { s.port with entries := s.port.entries.set t (.opened r p),
                                 taken := s.port.taken ++ [t] } }

/-- The state with a tenure under way. -/
def during (s : State) (pub : Publication) (own : Option Source) (drove : ReplyCode) : State :=
  { s with bus := { s.bus with phase := .tenure pub own drove none } }

/-- A tally: station 1 silent as an operand (its own position is what it drove), the codes of 2 and 3. -/
def tallyWith (two three : ReplyCode) : Tally :=
  #v[0, 0, two, three, 0, 0, 0, 0, 0, 0, 0, 0, 0, 0, 0, 0]

/-- The state with a loan entry for home line index 0 (line 0) in way 0 of set 0. -/
def lent (holders : StationSet) (heldBy owedBy : Option Station) (lost busy : Bool) : State :=
  let e : LoanEntry :=
    { index := 0, line := 0, holders := holders, heldBy := heldBy, owedBy := owedBy, lost := lost,
      busy := busy }
  pool.setLoanWay 0 { rank := 0, entry := some e }

/-- What an address resolves to. -/
def resOf (s : State) (a : Word) : Resolved :=
  (s.resolve a.toNat).getD { window := 0, entry := entryReset, home := 0, index := 0, word := 0,
                             line := 0, here := false, writer := false }

/-! ### Terms that spell no command -/

theorem test_illFormed_write_length : (Instr.write 0 2 0 [1]).wellFormed = false := by decide
theorem test_illFormed_push_length : (Instr.push 0 false 2 [1, 2, 3]).wellFormed = false := by decide
theorem test_illFormed_known_code : (Instr.unknownRequestKind 16).wellFormed = false := by decide
theorem test_wellFormed_unknown_code : (Instr.unknownRequestKind 17).wellFormed = true := by decide
theorem test_illFormed_same_contender_twice :
    (Instr.contentionRound [⟨3, true, none⟩, ⟨3, false, none⟩] false).wellFormed = false := by decide
theorem test_illFormed_direct_span :
    (Instr.publication ⟨2, 0, 4096, .readDirect 15 2⟩).wellFormed = false ∧
    (Instr.publication ⟨2, 0, 4096, .readDirect 15 0⟩).wellFormed = false ∧
    (Instr.publication ⟨2, 0, 4096, .readDirect 15 1⟩).wellFormed = true := by decide
theorem test_illFormed_empty_mask :
    (Instr.publication ⟨2, 0, 0, .writeThrough 0 false 0 lineZero⟩).wellFormed = false := by decide
theorem test_illFormed_operate_length :
    (Instr.publication ⟨2, 0, 0, .operate (.push 0 false 2 [1])⟩).wellFormed = false := by decide
theorem test_illFormed_data :
    (Instr.publication ⟨2, 0, 0, .data ⟨1, 2, 0, false, false, 0, 2, [1]⟩⟩).wellFormed = false ∧
    (Instr.publication ⟨2, 0, 0, .data ⟨1, 3, 0, false, false, 0, 1, [1]⟩⟩).wellFormed = false := by
  decide
theorem test_illFormed_assigned_kind_code :
    (Instr.publication ⟨2, 0, 0, .unassigned 3⟩).wellFormed = false := by decide

/-! ### The manual's worked values -/

/-- Window 2 of section 1.3.1. -/
def exampleWindow : WindowEntry :=
  { valid := true, base := 0x4000, sizeCode := 6, mode := .coherentWB, stripeCode := 2,
    stripes := #v[5, 2, 9, 11, 0, 0, 0, 0], homeBase := 16, writers := 0x224 }

/-- Section 1.3.1: the address resolved on station 9, and its byte at the home. -/
theorem test_resolve_example :
    let s : State := { pool with
      number := 9, decoder := { pool.decoder with table := Decoder.reset.table.set 2 exampleWindow } }
    let r := resOf s 0x40012344
    r.window = 2 ∧ r.home = 2 ∧ r.index = 16675 ∧ r.word = 1 ∧ r.line = 0x100048D ∧ r.here = false ∧
      r.writer = true ∧ bankAddr exampleWindow 0x40012344 = 0x1048C4 ∧
      regionStart exampleWindow + regionLength exampleWindow - 1 = 32767 := by decide +kernel

/-- The table of section 1.5.1 with what the four JOINs change in it. -/
def exampleTable (size1 : BitVec 4) (base2 : BitVec 16) (stripe2 : Station) : WindowTable :=
  ((Decoder.reset.table.set 0 { win 0 .priv 0 0 0 0 with sizeCode := 8 }).set 1
    { win 0x8000 .coherentWB 3 0 1 256 with sizeCode := size1, stripes := #v[0, 1, 2, 3, 4, 5, 6, 7] }).set 2
    { win 0 .uncached 0 stripe2 0 100 with base := base2, sizeCode := 6 }

/-- Section 1.5.1: the four JOINs of station 3. -/
theorem test_join_checks_example :
    failingWindow 3 1 (exampleTable 12 0x8400 3) = some 1 ∧
    failingWindow 3 1 (exampleTable 11 0x8400 3) = some 2 ∧
    failingWindow 3 1 (exampleTable 11 0x9000 3) = some 2 ∧
    failingWindow 3 1 (exampleTable 11 0x9000 5) = none := by decide +kernel

/-- Section 2.2.1: the winners of rounds 1, 3, 4 and 5. -/
theorem test_rounds_example :
    contentionKey ⟨12, false, none⟩ < contentionKey ⟨3, false, none⟩ ∧
    contentionKey ⟨9, false, some 6⟩ < contentionKey ⟨4, true, some 6⟩ ∧
    contentionKey ⟨11, false, some 4⟩ < contentionKey ⟨9, false, some 4⟩ ∧
    contentionKey ⟨2, false, some 4⟩ < contentionKey ⟨9, false, some 4⟩ ∧
    contentionKey ⟨2, false, some 9⟩ < contentionKey ⟨11, false, some 9⟩ := by decide

/-- The pair that an ACCUMULATE leaves, high word first. -/
def pairAfter (high low x y : Word) (variant : Variant) : List Word :=
  ((accumulateResult 0x100 x y variant fun a => if a = 0x104 then high else low).words).reverse

/-- Section 8.4.1: the five accumulations. -/
theorem test_accumulate_examples :
    pairAfter 1 0xFFFFFFF0 0x10 2 .addUnsigned = [2, 0x10] ∧
    pairAfter 1 0xFFFFFFF0 0xFFFFFFFF 3 .subSigned = [1, 0xFFFFFFF3] ∧
    pairAfter 0 0 0xFFFFFFFF 2 .addSigned = [0xFFFFFFFF, 0xFFFFFFFE] ∧
    pairAfter 0 0 0xFFFFFFFF 2 .addUnsigned = [1, 0xFFFFFFFE] ∧
    pairAfter 0 5 3 2 .subUnsigned = [0xFFFFFFFF, 0xFFFFFFFF] := by decide +kernel

/-- A stack's descriptor and, above it, words that show their addresses. -/
def stackRead (d ptr low high : Nat) (a : Nat) : Word :=
  if a = d then BitVec.ofNat 32 ptr else if a = d + 4 then BitVec.ofNat 32 low
  else if a = d + 8 then BitVec.ofNat 32 high else BitVec.ofNat 32 (a % 4096)

/-- The window of section 8.4.2 (and, with its base, of section 12.6). -/
def stackWindow (base : Nat) : WindowEntry := win base .uncached 0 3 0 0

/-- Section 8.4.2: the PUSH of three and the three POPs. -/
theorem test_stack_example :
    pushResult 0x90000100 false 3 [0xA, 0xB, 0xC] (stackWindow 0x9000)
        (stackRead 0x90000100 0x90001000 0x90000800 0x90001000) =
      ⟨.ok, [0x90000FF4], [(0x90000FFC, 0xA), (0x90000FF8, 0xB), (0x90000FF4, 0xC),
        (0x90000100, 0x90000FF4)]⟩ ∧
    popResult 0x90000100 2 (stackWindow 0x9000) (stackRead 0x90000100 0x90000FF4 0x90000800 0x90001000) =
      ⟨.ok, [0x90000FFC, 0xFF4, 0xFF8], [(0x90000100, 0x90000FFC)]⟩ ∧
    popResult 0x90000100 2 (stackWindow 0x9000) (stackRead 0x90000100 0x90000FFC 0x90000800 0x90001000) =
      ⟨.stackHigh, [0x90000FFC], []⟩ ∧
    popResult 0x90000100 1 (stackWindow 0x9000) (stackRead 0x90000100 0x90000FFC 0x90000800 0x90001000) =
      ⟨.ok, [0x90001000, 0xFFC], [(0x90000100, 0x90001000)]⟩ := by decide +kernel

/-- Section 12.6: a PUSH with mark, one refused STACK_LOW, one that fills the stack. -/
theorem test_push_mark_example :
    pushResult 0x94000040 true 2 [0xA, 0xB] (stackWindow 0x9400)
        (stackRead 0x94000040 0x94000210 0x94000200 0x94000400) =
      ⟨.ok, [0x94000204], [(0x9400020C, 0x94000210), (0x94000208, 0xA), (0x94000204, 0xB),
        (0x94000040, 0x94000204)]⟩ ∧
    pushResult 0x94000040 true 1 [0xC] (stackWindow 0x9400)
        (stackRead 0x94000040 0x94000204 0x94000200 0x94000400) = ⟨.stackLow, [0x94000204], []⟩ ∧
    pushResult 0x94000040 false 1 [0xC] (stackWindow 0x9400)
        (stackRead 0x94000040 0x94000204 0x94000200 0x94000400) =
      ⟨.ok, [0x94000200], [(0x94000200, 0xC), (0x94000040, 0x94000200)]⟩ := by decide +kernel

/-- Section 4.4.1: a hit refreshes its way, and the ranks below its old one go up by one. -/
theorem test_refresh_example :
    let slot (r : Fin 4) : Slot := { slotDefault 0 with state := .read, rank := r }
    let s := (((pool.setSlot 0 (slot 1)).setSlot 1 (slot 3)).setSlot 2 (slot 0)).setSlot 3 (slot 2)
    (List.range 4).map (fun k => ((s.refreshSlot 1).slotAt k).rank) = [2, 0, 1, 3] := by decide +kernel

/-- Section 2.5.1 on station 1 as the home: the loan update of a FETCH by 5 with a HOLD of 9. -/
theorem test_fetch_update_example :
    let e : LoanEntry := { freshLoan 0 0 with heldBy := some 9 }
    let rd : Reading := { kind := .fetch, tally := #v[0, 1, 0, 0, 0, 1, 0, 0, 0, 3, 0, 1, 0, 0, 0, 0] }
    e.updated ⟨5, 1, 0, .fetch⟩ rd = { e with holders := 0x220, heldBy := none, owedBy := some 9 } := by
  decide +kernel

/-- Section 9.8, the end: an aperture read and an ACK_MEMBERSHIP taken behind a LEAVE act at once, and
their completions are held behind it. -/
theorem test_stream_example :
    after2 .leave (.apertureRead 2) pool (fun u =>
      u.state = .leaving && u.port.completions = [] &&
      u.entry 1 = .opened (.apertureRead 2) (.stream (some (.ok, [4]))) &&
      after .ackMembership { u with members := { u.members with changed := true } } fun v =>
        v.members.changed = false && v.port.completions = []) = true := by decide +kernel

/-! ### How the hypotheses of the statements are shown -/

theorem canonical_of {s : State}
    (h : (Memory.wf s.bank.mem && tableWf slotDefault s.copy.slots && tableWf loanDefault s.loans) = true) :
    s.canonical := by
  simp only [Bool.and_eq_true] at h
  exact ⟨h.1.1, h.1.2, h.2⟩

theorem walkApart_of {s : State} {t : Tag} (h : s.copy.walk = none) : s.walkApart t := by
  intro w hw
  rw [h] at hw
  cases hw

theorem law_of {s : State}
    (h : (if s.state.replies then inSet s.members.present s.number = true else s.members.present = 0) ∧
      (s.members.awaited &&& ~~~s.members.present = 0) ∧
      (if s.state = .settling then s.members.awaited ≠ 0 ∧ s.members.timer = true
        else s.members.awaited = 0 ∧ s.members.timer = false) ∧
      (s.state = .unjoined → s.decoder.frozen = false))
    (hp : ∀ pub d x, s.bus.phase = .tenure pub none d x → pub.publisher ≠ s.number) :
    s.membershipLaw := by
  refine ⟨h.1, h.2.1, h.2.2.1, ?_, h.2.2.2⟩
  split
  · exact hp _ _ _ (by assumption)
  · trivial

theorem serves_of {s : State} {t : Tag} {r : Request} {res : Resolved} (a : Word)
    (h : s.freeTag = some t ∧ s.state = .member ∧ s.decoder.frozen = true ∧ requestAddress r = some a ∧
      s.resolve a.toNat = some res ∧ requestAligned r = true ∧ requestSupported r res = true ∧
      (requestChanges r = false ∨ res.writer = true) ∧ res.entry.mode ≠ .priv ∧
      s.lineFree res.line = true ∧ s.reservedFor (.head t) = none) : s.serves t r res := by
  obtain ⟨h1, h2, h3, h4, h5, h6, h7, h8, h9, h10, h11⟩ := h
  refine ⟨h1, h2, h3, ⟨a, h4, ?_⟩, h9, h10, h11⟩
  cases h8 with
  | inl h => simp [State.windowCheck, h5, h6, h7, h]
  | inr h => simp [State.windowCheck, h5, h6, h7, h]

theorem fails_of {x : Except Status Resolved} {st : Status}
    (h : (match x with | .error e => some e | .ok _ => none) = some st) : x = .error st := by
  split at h
  · cases h
    rfl
  · cases h

theorem atTally_of {s : State} {pub : Publication} {own : Option Source} {t : Tally} (drove : ReplyCode)
    (h : s.bus.phase = .tenure pub own drove none ∧ s.state.replies = true ∧
      s.departedAt (s.reading pub.body.kind drove t) = 0) :
    s.atTally pub own t (s.reading pub.body.kind drove t) :=
  ⟨drove, h.1, rfl, h.2.1, h.2.2⟩

/-! ### The machine as a whole, resets, halt -/

theorem test_idle : step pool = .next pool := by rfl

theorem test_front_command :
    step { pool with pending := [.flushAll, .leave] } = exec .flushAll { pool with pending := [.leave] } := by
  rfl

/-- For QueueNumberAndFrozenTableKept, StepKeepsCanonical and StepKeepsMembershipLaw. -/
theorem witness_StepKeepsMembershipLaw :
    pool.canonical ∧ pool.membershipLaw ∧ pool.faultsBounded ∧ pool.state ≠ .unjoined ∧
      after .flushAll pool (fun _ => true) = true := by
  refine ⟨canonical_of (by decide +kernel), law_of (by decide +kernel) ?_, by unfold State.faultsBounded; decide,
    by decide, by decide +kernel⟩
  intro pub d x h
  cases h

/-- The change from UNJOINED to JOINING. -/
theorem witness_StationStateFollowsTable :
    fresh.membershipLaw ∧ fresh.faultsBounded ∧ after .join fresh (fun u => u.state = .joining) = true := by
  refine ⟨law_of (by decide +kernel) ?_, by unfold State.faultsBounded; decide, by decide +kernel⟩
  intro pub d x h
  cases h

theorem test_reset :
    after .stationReset (lent 4 none none true false) (fun u =>
      u.state = .unjoined && u.number = 1 && u.loans = [] && !u.decoder.frozen) = true ∧
    after (.powerOnReset 9) pool (fun u => u.number = 9 && u.bus.reference.isNone) = true := by
  decide +kernel

/-- Two notices, one, and an open request: the halt completes it. -/
theorem witness_ThirdNoticeHaltsTheStation :
    let s := withRequest { pool with faults := [note, note] } 3 (.read 64 1) .line
    s.canonical ∧ s.state ≠ .halted ∧ s.faults.length = 2 ∧ pool.faults.length < 2 ∧
      (3 : Tag) ∈ s.port.taken ∧ s.entry 3 = .opened (.read 64 1) .line ∧
      (s.post note).state = .halted ∧ (s.post note).entry 3 = .done .halted [] ∧
      (pool.post note).faults = [note] := by
  refine ⟨canonical_of (by decide +kernel), ?_⟩
  decide +kernel

/-- For AckFaultEmptiesTheRecord and AckMembershipClearsTheMark. -/
theorem witness_AckFaultEmptiesTheRecord :
    pool.freeTag = some 0 ∧ pool.walkApart 0 ∧ pool.state ≠ .halted ∧ halted.freeTag = some 0 ∧
    halted.walkApart 0 ∧ halted.state = .halted ∧
    after .ackFault { pool with faults := [note, note] } (fun u =>
      u.faults = [] && u.entry 0 = .done .ok []) = true ∧
    after .ackFault halted (fun u => u.faults.length = 2 && u.entry 0 = .done .halted []) = true ∧
    after .ackMembership { pool with members := { pool.members with changed := true } } (fun u =>
      !u.attn && u.entry 0 = .done .ok []) = true ∧
    after .ackMembership halted (fun u => u.attn && u.entry 0 = .done .halted []) = true := by
  refine ⟨by decide, walkApart_of rfl, by decide, by decide +kernel, walkApart_of (by decide +kernel), ?_⟩
  decide +kernel

/-! ### The port -/

/-- Every entry is open. -/
def fullPort : State :=
  { pool with port := { pool.port with
      entries := #v[.opened .join .line, .opened .join .line, .opened .join .line, .opened .join .line,
                    .opened .join .line, .opened .join .line, .opened .join .line, .opened .join .line] } }

theorem witness_FullPortAndUnknownKinds :
    requestOf (.read 64 1) = some (.read 64 1) ∧ fullPort.freeTag = none ∧ fullPort.walkApart 3 ∧
    pool.freeTag = some 0 ∧ pool.state ≠ .halted ∧
    after (.read 64 1) fullPort (fun u => u.port.presented = [.read 64 1] && u.entry 3 = fullPort.entry 3)
      = true ∧
    after (.unknownRequestKind 17) pool (fun u => u.entry 0 = .done .unsupported []) = true := by
  refine ⟨rfl, by decide, walkApart_of rfl, ?_⟩
  decide +kernel

/-- The station not frozen; each window check that can fail. -/
theorem witness_PoolRequestsAreCheckedFirst :
    fresh.freeTag = some 0 ∧ fresh.decoder.frozen = false ∧ fresh.state ≠ .halted ∧
    pool.freeTag = some 0 ∧ pool.decoder.frozen = true ∧
    pool.windowCheck (.read 0x50000 1) 0x50000 = .error .unmapped ∧
    pool.windowCheck (.read 62 1) 62 = .error .misaligned ∧
    pool.windowCheck (.read 60 2) 60 = .error .misaligned ∧
    pool.windowCheck (.repairLine 64) 64 = .error .unsupported ∧
    { pool with decoder := { pool.decoder with
        table := pool.decoder.table.set 0 { win 0 .coherentWB 1 1 2 0 with writers := 4 } } }.windowCheck
      (.write 64 1 0xF [5]) 64 = .error .isProtected ∧
    after (.read 64 1) fresh (fun u => u.entry 0 = .done .notMember []) = true ∧
    after (.read 60 2) pool (fun u => u.entry 0 = .done .misaligned []) = true := by
  refine ⟨by decide, by decide, by decide, by decide, by decide, fails_of (by decide +kernel),
    fails_of (by decide +kernel), fails_of (by decide +kernel), fails_of (by decide +kernel),
    fails_of (by decide +kernel), ?_⟩
  decide +kernel

theorem witness_HaltedStationServesApertureReadsAlone :
    requestOf (.write 64 1 0xF [5]) = some (.write 64 1 0xF [5]) ∧ requestOf (.apertureRead 2) = some (.apertureRead 2) ∧
    halted.freeTag = some 0 ∧ halted.state = .halted ∧ halted.walkApart 0 ∧
    after (.write 64 1 0xF [5]) halted (fun u => u.entry 0 = .done .halted []) = true ∧
    after (.apertureRead 2) halted (fun u => u.entry 0 = .done .ok [5]) = true := by
  refine ⟨rfl, rfl, by decide +kernel, by decide +kernel, walkApart_of (by decide +kernel), ?_⟩
  decide +kernel

/-- The items at the boundaries of their ranges; the state word of each state is in witness_HaltedStationServesApertureReadsAlone and
test_stream_example. -/
theorem test_aperture_items :
    itemAt 0 = .identity ∧ itemAt 5 = .sizeCode ∧ itemAt 6 = .unassigned ∧ itemAt 0xF = .unassigned ∧
    itemAt 0x10 = .entry 0 0 ∧ itemAt 0x13 = .entry 0 3 ∧ itemAt 0x14 = .entry 1 0 ∧
    itemAt 0x4F = .entry 15 3 ∧ itemAt 0x50 = .notice 0 0 ∧ itemAt 0x53 = .notice 1 1 ∧
    itemAt 0x54 = .unassigned := by decide +kernel

theorem witness_ApertureReadReturnsTheItem :
    pool.freeTag = some 0 ∧ pool.walkApart 0 ∧
    after (.apertureRead 0) pool (fun u => u.entry 0 = .done .ok [0x24080001]) = true ∧
    after (.apertureRead 0x10) pool (fun u => u.entry 0 = .done .ok [0xA1000000]) = true := by
  refine ⟨by decide, walkApart_of rfl, ?_⟩
  decide +kernel

theorem witness_ApertureWriteFollowsTheTable :
    halted.freeTag = some 0 ∧ halted.walkApart 0 ∧ halted.state = .halted ∧
    pool.freeTag = some 0 ∧ pool.walkApart 0 ∧ pool.state ≠ .halted ∧ pool.state ≠ .unjoined ∧
    fresh.freeTag = some 0 ∧ fresh.walkApart 0 ∧ fresh.state = .unjoined ∧
    (itemAt 0).writable = false ∧ (itemAt 5).writable = true ∧ (itemAt 0x10).writable = true ∧
    after (.apertureWrite 5 4) halted (fun u => u.entry 0 = .done .halted []) = true ∧
    after (.apertureWrite 0 4) pool (fun u => u.entry 0 = .done .ok [] && u.decoder = pool.decoder) = true ∧
    after (.apertureWrite 5 4) pool (fun u => u.entry 0 = .done .locked []) = true ∧
    after (.apertureWrite 5 0xC) fresh (fun u => u.decoder.sizeCode = 4) = true := by
  refine ⟨by decide +kernel, walkApart_of (by decide +kernel), by decide +kernel, by decide, walkApart_of rfl, by decide, by decide, by decide,
    walkApart_of rfl, ?_⟩
  decide +kernel

/-- The four words of a window entry, written and read back; a bit that holds no field reads zero. -/
theorem test_apertureWrite_entry :
    after2 (.apertureWrite 0x4C 0xE30F1234) (.apertureWrite 0x4D 0x76543210) fresh (fun u =>
      u.apertureWord 0x4C = 0xA30F1234 && u.apertureWord 0x4D = 0x76543210 &&
      after2 (.apertureWrite 0x4E 0xFFFFF) (.apertureWrite 0x4F 0xF8001) u fun v =>
        v.apertureWord 0x4E = 0xFFF && v.apertureWord 0x4F = 0x8001 &&
        v.decoder.table[15].mode = .coherentWB && v.apertureWord 0x48 = 0) = true := by decide +kernel

theorem witness_JoinCommandFollowsTheTable :
    fresh.freeTag = some 0 ∧ fresh.walkApart 0 ∧ fresh.state = .unjoined ∧
    failingWindow fresh.number fresh.decoder.sizeCode fresh.decoder.table = none ∧
    failingWindow fresh.number 7 fresh.decoder.table = some 0 ∧
    pool.freeTag = some 0 ∧ pool.walkApart 0 ∧ pool.state ≠ .unjoined ∧ pool.state ≠ .halted ∧
    halted.freeTag = some 0 ∧
    after .join fresh (fun u => u.state = .joining && u.decoder.frozen && u.bus.offers = [.join]) = true ∧
    after .join { fresh with decoder := { fresh.decoder with sizeCode := 7 } } (fun u =>
      u.entry 0 = .done .configInvalid [0] && u.state = .unjoined) = true ∧
    after .join pool (fun u => u.entry 0 = .done .locked []) = true ∧
    after .join halted (fun u => u.entry 0 = .done .halted []) = true := by
  refine ⟨by decide, walkApart_of rfl, by decide, by decide +kernel, by decide +kernel, by decide, walkApart_of rfl, by decide, by decide, by decide +kernel, ?_⟩
  decide +kernel

theorem witness_LeaveCommandFollowsTheRule :
    pool.canonical ∧ pool.freeTag = some 0 ∧ pool.walkApart 0 ∧ pool.state = .member ∧ pool.retained = 0 ∧
    (alone .held).canonical ∧ (alone .held).state = .member ∧ 0 < (alone .held).retained ∧
    fresh.canonical ∧ fresh.state ≠ .member ∧ fresh.state ≠ .halted ∧ halted.canonical ∧
    after .leave (copyOf .read false false) (fun u =>
      u.state = .leaving && (u.slotAt 4).state = .void && u.entry 0 = .opened .leave (.stream none)) = true ∧
    after .leave (alone .held) (fun u => u.state = .member && u.entry 0 = .done .retainedLines [1]) = true ∧
    after .leave fresh (fun u => u.entry 0 = .done .notMember []) = true ∧
    after .leave halted (fun u => u.entry 0 = .done .halted []) = true := by
  refine ⟨canonical_of (by decide +kernel), by decide, walkApart_of rfl, by decide, by decide,
    canonical_of (by decide +kernel), by decide +kernel, by decide +kernel, canonical_of (by decide +kernel), by decide, by decide,
    canonical_of (by decide +kernel), ?_⟩
  decide +kernel

/-- One completion offered, one request waiting at the port. -/
theorem witness_TakingACompletionFreesItsEntry :
    let s := { pool with port := { pool.port with entries := pool.port.entries.set 2 (.done .ok [7]),
                                                  completions := [2] } }
    s.port.completions = 2 :: [] ∧ s.port.presented = [] ∧
    after .completionTake s (fun u => u.entry 2 = .free && u.port.completions = []) = true ∧
    after .completionTake { s with port := { s.port with presented := [.ackFault] } } (fun u =>
      u.entry 2 = .free && u.entry 0 = .done .ok [] && u.port.presented = []) = true := by decide +kernel

/-! ### Addresses and operations -/

theorem witness_AddressesResolveOneWay :
    failingWindow 1 0 table = none ∧ windowContains table[1] 0x10000 = true ∧
    windowContains table[1] 0x1FFFF = true ∧ windowContains table[1] 0x20000 = false ∧
    findWindow table 0xFFC0 = some 0 ∧ table[0].mode ≠ .priv ∧ (resOf pool 0xFFC0).index = 511 ∧
    (resOf pool 0xFFC0).home = 2 ∧ (resOf pool 0xFF80).here = true := by decide +kernel

theorem witness_CondStoreFollowsItsRule :
    testPasses .zero (readCopy (words 0) 0x40) = true ∧ testPasses .nonzero (readCopy (words 0) 0x44) = true ∧
    testPasses .zero (readCopy (words 0) 0x44) = false ∧
    (copyOf .held false false).canonical ∧
    (((copyOf .held false false).operateCopy 0 4 (.condStore 0x40 0x44 0x100 .nonzero) entryReset).slotAt 4).dirty
      = true := by
  refine ⟨by decide +kernel, by decide +kernel, by decide +kernel, canonical_of (by decide +kernel), by decide +kernel⟩

/-- A pointer not aligned, one below and one above its limits, one word too few, a word on the
descriptor, and the exact fit. -/
theorem witness_StackOperationsFollowTheirRules :
    let e := stackWindow 0x9000
    let push (ptr low high : Nat) := (opResult (.push 0x90000100 false 1 [7]) e
      (stackRead 0x90000100 ptr low high)).status
    let pop (ptr low high : Nat) := (opResult (.pop 0x90000100 1) e
      (stackRead 0x90000100 ptr low high)).status
    push 0x90000802 0x90000800 0x90000900 = .stackBad ∧ push 0x900007FC 0x90000800 0x90000900 = .stackBad ∧
    push 0x90000904 0x90000800 0x90000900 = .stackBad ∧ push 0x90000800 0x90000800 0x90000900 = .stackLow ∧
    push 0x90000104 0x90000000 0x90000900 = .stackBad ∧ push 0x90000100 0x90000000 0x90000900 = .ok ∧
    push 0x90000804 0x90000800 0x90000900 = .ok ∧ push 0x90010004 0x90000800 0x90010008 = .stackBad ∧
    pop 0x90000802 0x90000800 0x90000900 = .stackBad ∧ pop 0x90000900 0x90000800 0x90000900 = .stackHigh ∧
    pop 0x90000108 0x90000000 0x90000900 = .stackBad ∧ pop 0x9000010C 0x90000000 0x90000900 = .ok ∧
    pop 0x900008FC 0x90000800 0x90000900 = .ok := by decide +kernel

/-! ### The copy route -/

theorem copied_of {res : Resolved}
    (h : res.here = false ∧ (res.entry.mode = .coherentWT ∨ res.entry.mode = .coherentWB)) : res.copied := h

/-- An EVICTING slot of line 1 whose record 0 has no tags. -/
def evicting : State := withRecord (copyOf .evicting true true) 0 (newRecord .ret 1 (some 4) [] .none)

theorem witness_ReadHitsTheCopy :
    (copyOf .read false false).canonical ∧
    (copyOf .read false false).serves 0 (.read 68 2) (resOf pool 68) ∧ (resOf pool 68).copied ∧
    (copyOf .read false false).slotlessRecord (resOf pool 68).line = false ∧
    (copyOf .read false false).slotOf (resOf pool 68).line = some 4 ∧
    ((copyOf .read false false).slotAt 4).state = .read ∧
    evicting.canonical ∧ evicting.serves 0 (.read 68 2) (resOf pool 68) ∧
    evicting.slotlessRecord (resOf pool 68).line = false ∧ evicting.slotOf (resOf pool 68).line = some 4 ∧
    (evicting.slotAt 4).state = .evicting ∧
    (∀ p r, evicting.recordOf (resOf pool 68).line = some (p, r) → r.tags = []) ∧
    after (.read 68 2) (copyOf .read false false) (fun u => u.entry 0 = .done .ok [0x101, 0x102]) = true ∧
    after (.read 124 1) (copyOf .held true true) (fun u => u.entry 0 = .done .lostData [0x10F]) = true ∧
    after (.read 68 2) evicting (fun u => u.entry 0 = .done .lostData [0x101, 0x102]) = true := by
  refine ⟨canonical_of (by decide +kernel), serves_of 68 (by decide +kernel), copied_of (by decide +kernel),
    by decide +kernel, by decide +kernel, by decide +kernel, canonical_of (by decide +kernel),
    serves_of 68 (by decide +kernel), by decide +kernel, by decide +kernel, by decide +kernel, ?_,
    by decide +kernel⟩
  intro p r h
  rw [show evicting.recordOf (resOf pool 68).line = some (0, newRecord .ret 1 (some 4) [] .none) by
    decide +kernel] at h
  cases h
  rfl

theorem witness_WriteHitsTheHeldCopy :
    (copyOf .held false false).canonical ∧
    (copyOf .held false false).serves 0 (.write 68 1 0x5 [0xAABBCCDD]) (resOf pool 68) ∧
    (resOf pool 68).here = false ∧ (resOf pool 68).entry.mode = .coherentWB ∧
    (copyOf .held false false).slotlessRecord (resOf pool 68).line = false ∧
    (copyOf .held false false).slotOf (resOf pool 68).line = some 4 ∧
    ((copyOf .held false false).slotAt 4).state = .held ∧
    after (.write 68 1 0x5 [0xAABBCCDD]) (copyOf .held false false) (fun u =>
      u.entry 0 = .done .ok [] && (u.slotAt 4).dirty &&
      lineWord (u.slotAt 4).words 1 = 0x00BB01DD && lineWord (u.slotAt 4).words 2 = 0x102) = true := by
  refine ⟨canonical_of (by decide +kernel), serves_of 68 (by decide +kernel), ?_⟩
  decide +kernel

theorem witness_OperationActsOnTheHeldCopy :
    (copyOf .held false true).serves 0 (.operation (.accumulate 64 2 3 .addUnsigned)) (resOf pool 64) ∧
    (resOf pool 64).copied ∧ (copyOf .held false true).slotlessRecord (resOf pool 64).line = false ∧
    (copyOf .held false true).slotOf (resOf pool 64).line = some 4 ∧
    after (.accumulate 64 2 3 .addUnsigned) (copyOf .held false true) (fun u =>
      u.entry 0 = .done .lostData [0x106, 0x101] && (u.slotAt 4).dirty &&
      lineWord (u.slotAt 4).words 0 = 0x106) = true ∧
    after (.condStore 64 68 9 .zero) (copyOf .held false false) (fun u =>
      u.entry 0 = .done .condFalse [0x100, 0x101] && !(u.slotAt 4).dirty) = true := by
  refine ⟨serves_of 64 (by decide +kernel), copied_of (by decide +kernel), ?_⟩
  decide +kernel

theorem witness_MissFetchesTheLine :
    pool.canonical ∧ pool.serves 0 (.read 64 1) (resOf pool 64) ∧
    pool.serves 0 (.write 64 1 0xF [9]) (resOf pool 64) ∧ (resOf pool 64).entry.mode = .coherentWB ∧
    (resOf pool 64).copied ∧ pool.walkApart 0 ∧ pool.recordOf (resOf pool 64).line = none ∧
    pool.slotOf (resOf pool 64).line = none ∧ pool.setQueued 0 (resOf pool 64).line = false ∧
    (slotsOf (resOf pool 64).line).find? (fun k => (pool.slotAt k).state = .void) = some 4 ∧
    pool.idlePosition = some 0 ∧
    after (.read 64 1) pool (fun u => u.entry 0 = .opened (.read 64 1) (.onRecord 0) &&
      u.recordAt 0 = some (newRecord .fetch 1 (some 4) [0] .none) && (u.slotAt 4).state = .filling &&
      u.bus.offers = [.record 0]) = true ∧
    after (.write 64 1 0xF [9]) pool (fun u => (u.slotAt 4).state = .owning &&
      u.recordAt 0 = some (newRecord .fetchOwn 1 (some 4) [0] .none)) = true := by
  refine ⟨canonical_of (by decide +kernel), serves_of 64 (by decide +kernel), serves_of 64 (by decide +kernel),
    by decide +kernel, copied_of (by decide +kernel), walkApart_of rfl, ?_⟩
  decide +kernel

theorem witness_MaintenanceOfALine :
    pool.serves 0 (.flushLine 64) (resOf pool 64) ∧ (resOf pool 64).copied ∧
    pool.slotlessRecord (resOf pool 64).line = false ∧ pool.walkApart 0 ∧
    pool.slotOf (resOf pool 64).line = none ∧
    (copyOf .held true false).serves 0 (.discardLine 64) (resOf pool 64) ∧
    (copyOf .held true false).homePresent 1 = true ∧ (copyOf .held true false).idlePosition = some 0 ∧
    (alone .held).serves 0 (.flushLine 192) (resOf pool 192) ∧ (alone .held).homePresent 3 = false ∧
    (alone .held).slotOf (resOf pool 192).line = some 12 ∧
    after (.flushLine 64) pool (fun u => u.entry 0 = .done .ok []) = true ∧
    after (.discardLine 64) (copyOf .read false false) (fun u =>
      u.entry 0 = .done .ok [] && (u.slotAt 4).state = .void) = true ∧
    after (.flushLine 64) (copyOf .held true false) (fun u => (u.slotAt 4).state = .evicting &&
      u.recordAt 0 = some (newRecord .ret 1 (some 4) [0] .none)) = true ∧
    after (.discardLine 64) (copyOf .held true false) (fun u => (u.slotAt 4).state = .evicting &&
      u.recordAt 0 = some (newRecord .release 1 (some 4) [0] .none)) = true ∧
    after (.flushLine 192) (alone .held) (fun u => u.entry 0 = .done .homeAbsent [] &&
      (u.slotAt 12).state = .held) = true ∧
    after (.discardLine 192) (alone .held) (fun u => u.entry 0 = .done .ok [] &&
      (u.slotAt 12).state = .void) = true := by
  refine ⟨serves_of 64 (by decide +kernel), copied_of (by decide +kernel), by decide +kernel, walkApart_of rfl, by decide +kernel,
    serves_of 64 (by decide +kernel), by decide +kernel, by decide +kernel, serves_of 192 (by decide +kernel), ?_⟩
  decide +kernel

theorem witness_FlushAllWithNothingToFlush :
    settling.freeTag = some 0 ∧ settling.state = .settling ∧ pool.freeTag = some 0 ∧ pool.copy.walk = none ∧
    pool.port.taken = [] ∧ pool.walkSlots = [] ∧ pool.members.ready = [] ∧ (alone .held).walkSlots = [] ∧
    after .flushAll settling (fun u => u.entry 0 = .done .ok [0]) = true ∧
    after .flushAll pool (fun u => u.entry 0 = .done .ok [0]) = true ∧
    after .flushAll (alone .held) (fun u => u.entry 0 = .done .ok [1]) = true := by decide +kernel

/-- A flush walk turns a HELD slot, and its RETURN's tally completes it. -/
theorem test_flushAll_walk :
    after .flushAll (copyOf .held true false) (fun u =>
      u.entry 0 = .opened .flushAll .walk && (u.slotAt 4).state = .evicting &&
      after (.contentionRound [] false) u fun v =>
        after (.returnTally (tallyWith 1 0)) v fun w =>
          w.entry 0 = .done .ok [0] && (w.slotAt 4).state = .void && w.copy.walk.isNone) = true := by
  decide +kernel

/-! ### Requests at the home -/

theorem witness_HomeReadsAndOperationsAreIssued :
    pool.serves 0 (.read 4 1) (resOf pool 4) ∧
    pool.serves 0 (.operation (.pop 0x40000 1)) (resOf pool 0x40000) ∧ (resOf pool 4).here = true ∧
    (resOf pool 0x40000).here = true ∧ pool.walkApart 0 ∧ pool.homeOf 0 = none ∧
    pool.homeHas (resOf pool 4).line = false ∧ pool.recallStands (resOf pool 4).line = false ∧
    recallNeed (pool.loanOf 0) (.read 4 1) = none ∧ pool.bank.run = none ∧
    (lent 4 none none true false).serves 0 (.read 4 1) (resOf pool 4) ∧
    recallNeed ((lent 4 none none true false).loanOf 0) (.read 4 1) = none ∧
    after (.read 4 1) (lent 4 none none true false) (fun u =>
      u.bank.inFlight = [.localRead (some 0) true [0]]) = true ∧
    after (.pop 0x40000 1) pool (fun u => u.bank.run.isSome && u.bank.inFlight = []) = true ∧
    after (.push 0x40000 true 1 [5]) pool (fun u => u.bank.run.isSome) = true := by
  refine ⟨serves_of 4 (by decide +kernel), serves_of 0x40000 (by decide +kernel), by decide +kernel,
    by decide +kernel, walkApart_of rfl, by decide +kernel, by decide +kernel, by decide +kernel,
    by decide +kernel, by decide +kernel, serves_of 4 (by decide +kernel), ?_⟩
  decide +kernel

theorem witness_HomeWriteStoresItsBytes :
    pool.canonical ∧ pool.serves 0 (.write 128 1 0x6 [0x11223344]) (resOf pool 128) ∧
    (resOf pool 128).here = true ∧ (resOf pool 128).index = 1 ∧ pool.walkApart 0 ∧ pool.homeOf 0 = none ∧
    pool.homeHas (resOf pool 128).line = false ∧ pool.recallStands (resOf pool 128).line = false ∧
    recallNeed (pool.loanOf 1) (.write 128 1 0x6 [0x11223344]) = none ∧ pool.bank.run = none ∧
    after (.write 128 1 0x6 [0x11223344]) pool (fun u =>
      u.bank.mem = [(65, 0x33), (66, 0x22)] && u.bank.inFlight = [.localStore (some 0)] &&
      after .memoryWriteEnd u fun v => v.entry 0 = .done .ok []) = true := by
  refine ⟨canonical_of (by decide +kernel), serves_of 128 (by decide +kernel), by decide +kernel,
    by decide +kernel, walkApart_of rfl, ?_⟩
  decide +kernel

theorem witness_RepairClearsTheLostMark :
    (lent 0 none none true false).canonical ∧ (lent 0 none none true false).serves 0 (.repairLine 0) (resOf pool 0) ∧
    (lent 0 none none true false).homeOf 0 = none ∧
    (lent 0 none none true false).homeHas (resOf pool 0).line = false ∧
    (lent 0 none none true false).recallStands (resOf pool 0).line = false ∧
    recallNeed ((lent 0 none none true false).loanOf 0) (.repairLine 0) = none ∧
    after (.repairLine 0) (lent 0 none none true false) (fun u =>
      u.entry 0 = .done .ok [] && u.loans = []) = true ∧
    after (.repairLine 0) (lent 4 none none true false) (fun u =>
      u.recordAt 0 = some (newRecord .recallAll 0 none [] .none) &&
      u.entry 0 = .opened (.repairLine 0) .homeQueue) = true := by
  refine ⟨canonical_of (by decide +kernel), serves_of 0 (by decide +kernel), ?_⟩
  decide +kernel

/-- Station 1 with accesses of tags 3 and 4 under way. -/
def accessing : State :=
  let s := withRequest (withRequest pool 3 (.read 4 1) .bank) 4 (.write 0 1 1 [7]) .bank
  { s with bank := { s.bank with inFlight := [.localStore (some 4), .localRead (some 3) true [9]] } }

theorem witness_LocalAccessEnds :
    accessing.entry 3 = .opened (.read 4 1) .bank ∧ accessing.entry 4 = .opened (.write 0 1 1 [7]) .bank ∧
    popAccess asLocalRead accessing.bank.inFlight = some ((some 3, true, [9]), [.localStore (some 4)]) ∧
    popAccess asLocalStore accessing.bank.inFlight = some (some 4, [.localRead (some 3) true [9]]) ∧
    after (.localHomeReadEnd false) accessing (fun u => u.entry 3 = .done .lostData [9]) = true ∧
    after (.localHomeReadEnd true) accessing (fun u => u.entry 3 = .done .memoryError [] &&
      u.faults = [⟨.memoryError, some 1, some 0, none⟩]) = true ∧
    after .memoryWriteEnd accessing (fun u => u.entry 4 = .done .ok [] &&
      u.bank.inFlight = [.localRead (some 3) true [9]]) = true := by decide +kernel

/-- Station 1 with the run of an ACCUMULATE on line 0 under way for tag 3. -/
def running : State :=
  let op : PoolOp := .accumulate 0 2 3 .addUnsigned
  let s := withRequest pool 3 (.operation op) .bank
  { s with bank := { s.bank with run := some ⟨.request 3, op, 0, false, none⟩ } }

theorem witness_OperationRunEnds :
    running.canonical ∧ running.bank.run = some ⟨.request 3, .accumulate 0 2 3 .addUnsigned, 0, false, none⟩ ∧
    running.bank.held = [] ∧ running.request 3 = some (.operation (.accumulate 0 2 3 .addUnsigned)) ∧
    running.resolveLine 0 = some (resOf pool 0) ∧
    after (.operationRunEnd false) running (fun u => u.bank.mem = [(0, 6)] &&
      u.entry 3 = .done .ok [6, 0] && u.bank.run.isNone) = true ∧
    after (.operationRunEnd true) running (fun u => u.bank.mem = [] &&
      u.entry 3 = .done .memoryError [0] && u.faults.length = 1) = true := by
  refine ⟨canonical_of (by decide +kernel), ?_⟩
  decide +kernel

/-! ### Contention, publications, replies -/

theorem witness_ContentionRoundOutcome :
    pool.bus.phase = .free ∧ pool.ownClass = none ∧
    (withRecord pool 0 (newRecord .fetch 1 (some 4) [0] .none)).ownClass = some .request ∧
    (withRecord pool 0 (newRecord .fetch 1 (some 4) [0] .none)).winsRound .request [⟨2, false, none⟩] = true ∧
    (withRecord pool 0 (newRecord .fetch 1 (some 4) [0] .none)).winsRound .request [⟨0, false, none⟩] = false ∧
    (withRecord pool 0 (newRecord .fetch 1 (some 4) [0] .none)).nextPublication .request =
      some (.offer (.record 0), ⟨1, 0, 1, .fetch⟩) ∧
    after (.contentionRound [⟨2, false, none⟩] false) (withRecord pool 0 (newRecord .fetch 1 (some 4) [0] .none))
      (fun u => u.bus.phase = .tenure ⟨1, 0, 1, .fetch⟩ (some (.offer (.record 0))) 1 none &&
        u.bus.reference = some 1) = true ∧
    after (.contentionRound [⟨2, true, none⟩] false) (withRecord pool 0 (newRecord .fetch 1 (some 4) [0] .none))
      (fun u => u.bus.phase = .free && u.bus.contention = some .request) = true ∧
    after (.contentionRound [] true) (withRecord pool 0 (newRecord .fetch 1 (some 4) [0] .none))
      (fun u => u.bus.phase = .free && u.bus.reference.isNone) = true := by decide +kernel

theorem witness_PublicationIsObserved :
    pool.bus.phase = .free ∧ (2 : Station) ≠ pool.number ∧ pool.state.replies = true ∧
    fresh.state.replies = false ∧
    after (.publication ⟨2, 0, 0, .fetch⟩) fresh (fun u =>
      u.bus.phase = .tenure ⟨2, 0, 0, .fetch⟩ none 0 none && u.bus.reference = some 2) = true ∧
    after (.publication ⟨5, 0, 0, .join 0 table⟩) pool (fun u =>
      u.bus.phase = .tenure ⟨5, 0, 0, .join 0 table⟩ none 1 none) = true ∧
    after (.publication ⟨2, 0, 0, .join 5 table⟩) pool (fun u =>
      u.bus.phase = .tenure ⟨2, 0, 0, .join 5 table⟩ none 5 none) = true := by decide +kernel

/-- The reply to a publication on line 1 in a state. -/
def replyTo (s : State) (body : Body) : Option ReplyCode :=
  match exec (.publication ⟨2, 1, 1, body⟩) s with
  | .next u => match u.bus.phase with
    | .tenure _ _ drove _ => some drove
    | .free => none
  | _ => none

theorem witness_SnoopReplyFollowsTheSlot :
    (copyOf .held true false).bus.phase = .free ∧ (copyOf .held true false).state.replies = true ∧
    (copyOf .held true false).homedHere 1 = none ∧ (copyOf .held true false).copyable 1 = true ∧
    takesHold .fetch = true ∧ (copyOf .held true false).slotOf 1 = some 4 ∧ pool.slotOf 1 = none ∧
    (copyOf .held true false).freeSupply = some 0 ∧
    replyTo pool .fetch = some 1 ∧ replyTo (copyOf .read false false) .fetch = some 2 ∧
    replyTo (copyOf .upgrading false false) .claim = some 2 ∧ replyTo (copyOf .held true false) .claim = some 4 ∧
    replyTo (copyOf .held true false) .fetchOwn = some 3 ∧ replyTo (copyOf .evicting true false) .recallAll = some 3 ∧
    replyTo { copyOf .held true false with supply := { SupplyQueue.reset with
      entries := #v[.reserved 2 .fetch 0 0, .reserved 2 .fetch 0 0, .reserved 2 .fetch 0 0,
                    .reserved 2 .fetch 0 0] } } .fetch = some 4 := by decide +kernel

theorem witness_HomeReplyFollowsItsCauses :
    pool.homedHere 0 = some 0 ∧ lineKind .fetch = true ∧ pool.homeRetries .fetch 0 0 = false ∧
    homeSupplies .fetch = true ∧ pool.freeSupply = some 0 ∧ pool.freeHome = some 0 ∧
    pool.homeRetries .operate 0 0 = false ∧ (lent 4 none none false true).homeRetries .fetch 0 0 = true ∧
    (lent 4 none (some 2) false false).homeRetries .ret 0 0 = true ∧ settling.homeRetries .fetch 0 0 = true ∧
    settling.homeRetries .ret 0 0 = false ∧
    after (.publication ⟨2, 3, 0, .fetch⟩) pool (fun u => u.supply.entries[0] = .reserved 2 .fetch 0 3 &&
      u.bus.phase = .tenure ⟨2, 3, 0, .fetch⟩ none 1 none) = true ∧
    after (.publication ⟨2, 3, 0, .operate (.condStore 0 0 5 .zero)⟩) pool (fun u =>
      u.supply.entries[0] = .reserved 2 .operate 0 3 && u.homeQueue.entries[0] = .reserved 2 0 3) = true ∧
    after (.publication ⟨2, 3, 0, .fetch⟩) (lent 4 none none false true) (fun u =>
      u.bus.phase = .tenure ⟨2, 3, 0, .fetch⟩ none 4 none) = true := by decide +kernel

/-! ### Tallies of own records -/

/-- Station 1's record in position 0 at its tally. -/
def ownTenure (s : State) (r : Record) (body : Body) : State :=
  during (withRecord s 0 r) ⟨1, 0, r.line, body⟩ (some (.offer (.record 0))) 1

theorem ownRecord_of {s : State} {pub : Publication} {p : RecordTag} {r : Record}
    (h : s.recordAt p = some r ∧ r.kind = pub.body.kind ∧ r.line = pub.line ∧ r.phase = .waitingBus) :
    s.ownRecord pub p r := h

/-- A FETCH of line 1 at its tally. -/
def fetching : State := ownTenure (copyOf .filling false false) (newRecord .fetch 1 (some 4) [3] .none) .fetch

theorem witness_OwnTallyAwaitsData :
    fetching.canonical ∧ Kind.fetch ∈ [Kind.fetch, .fetchOwn, .readDirect, .operate] ∧
    fetching.atTally ⟨1, 0, 1, .fetch⟩ (some (.offer (.record 0))) (tallyWith 1 0)
      (fetching.reading .fetch 1 (tallyWith 1 0)) ∧
    fetching.ownRecord ⟨1, 0, 1, .fetch⟩ 0 (newRecord .fetch 1 (some 4) [3] .none) ∧
    fetching.homedHere 1 = none ∧ fetching.lineHome 1 = some 2 ∧
    fetching.takesEffect ⟨1, 0, 1, .fetch⟩ (fetching.reading .fetch 1 (tallyWith 1 0)) = true ∧
    after (.fetchTally (tallyWith 1 0)) fetching (fun u => (u.recordAt 0).any fun r =>
      r.phase = .waitingData && r.supplier = some 2 && r.deadline) = true ∧
    after (.fetchTally (tallyWith 1 3)) fetching (fun u => (u.recordAt 0).any fun r =>
      r.supplier = some 3) = true ∧
    after (.operateTally (tallyWith 1 0)) (ownTenure (copyOf .read false false)
      (newRecord .operate 1 none [3] (.operate (.pop 0 1))) (.operate (.pop 0 1))) (fun u =>
        (u.slotAt 4).state = .void && (u.recordAt 0).any fun r => r.supplier = some 2) = true := by
  refine ⟨canonical_of (by decide +kernel), by decide, atTally_of 1 (by decide +kernel),
    ownRecord_of (by decide +kernel), ?_⟩
  decide +kernel

/-- A CLAIM of line 1 with a WRITE and a READ waiting, at its tally. -/
def claiming : State :=
  ownTenure (withRequest (withRequest (copyOf .upgrading false false) 3 (.write 64 1 0xF [9]) (.onRecord 0)) 5
    (.read 64 1) (.onRecord 0)) (newRecord .claim 1 (some 4) [3, 5] .none) .claim

theorem witness_OwnClaimTakesTheLine :
    claiming.canonical ∧
    claiming.atTally ⟨1, 0, 1, .claim⟩ (some (.offer (.record 0))) (tallyWith 1 2)
      (claiming.reading .claim 1 (tallyWith 1 2)) ∧
    claiming.ownRecord ⟨1, 0, 1, .claim⟩ 0 (newRecord .claim 1 (some 4) [3, 5] .none) ∧
    claiming.homedHere 1 = none ∧
    claiming.takesEffect ⟨1, 0, 1, .claim⟩ (claiming.reading .claim 1 (tallyWith 1 2)) = true ∧
    after (.claimTally (tallyWith 1 2)) claiming (fun u => (u.slotAt 4).state = .held && (u.slotAt 4).dirty &&
      u.entry 3 = .done .ok [] && u.entry 5 = .done .ok [9] && u.positions[0] = .free) = true := by
  refine ⟨canonical_of (by decide +kernel), atTally_of 1 (by decide +kernel), ownRecord_of (by decide +kernel), ?_⟩
  decide +kernel

/-- A RETURN of line 1 at its tally, with and without a successor. -/
def returning : State :=
  ownTenure (copyOf .evicting true false) (newRecord .ret 1 (some 4) [] .none) (.ret (words 0x100))

/-- The same with a READ of line 513 waiting for the way. -/
def succeeding : State :=
  withRequest (returning.setPosition 2 (.reserved (.successor 3 4))) 3 (.read 0x8040 1) (.successor 4)

theorem witness_OwnWriteOrEvictionEnds :
    returning.canonical ∧ succeeding.canonical ∧
    succeeding.atTally ⟨1, 0, 1, .ret (words 0x100)⟩ (some (.offer (.record 0))) (tallyWith 1 0)
      (succeeding.reading .ret 1 (tallyWith 1 0)) ∧
    succeeding.ownRecord ⟨1, 0, 1, .ret (words 0x100)⟩ 0 (newRecord .ret 1 (some 4) [] .none) ∧
    returning.successorOf 4 = none ∧ succeeding.successorOf 4 = some (2, 3) ∧
    succeeding.entry 3 = .opened (.read 0x8040 1) (.successor 4) ∧
    succeeding.takesEffect ⟨1, 0, 1, .ret (words 0x100)⟩ (succeeding.reading .ret 1 (tallyWith 1 0)) = true ∧
    after (.returnTally (tallyWith 1 0)) returning (fun u => (u.slotAt 4).state = .void &&
      u.positions[0] = .free) = true ∧
    after (.returnTally (tallyWith 1 0)) succeeding (fun u => (u.slotAt 4).state = .filling &&
      (u.slotAt 4).line = 513 && u.recordAt 2 = some (newRecord .fetch 513 (some 4) [3] .none)) = true ∧
    after (.releaseTally (tallyWith 1 0)) (ownTenure (copyOf .evicting false false)
      (newRecord .release 1 (some 4) [] .none) .release) (fun u => (u.slotAt 4).state = .void) = true ∧
    after (.writeThroughTally (tallyWith 1 0)) (ownTenure (withRequest pool 3 (.write 0x10000 1 0xF [9]) (.onRecord 0))
      (newRecord .writeThrough 1024 none [3] (writePayload (.write 0x10000 1 0xF [9])))
      (.writeThrough 1 false 0xF (lineOf fun _ => 9))) (fun u => u.entry 3 = .done .ok []) = true := by
  refine ⟨canonical_of (by decide +kernel), canonical_of (by decide +kernel), atTally_of 1 (by decide +kernel),
    ownRecord_of (by decide +kernel), ?_⟩
  decide +kernel

/-- A RECALL_ALL of line 0 at its tally. -/
def recalling (heldBy : Option Station) : State :=
  ownTenure (lent 4 heldBy none false true) (newRecord .recallAll 0 none [] .none) .recallAll

theorem witness_OwnRecallTally :
    (recalling none).canonical ∧ (recalling (some 3)).canonical ∧
    (recalling none).atTally ⟨1, 0, 0, .recallAll⟩ (some (.offer (.record 0))) (tallyWith 2 0)
      ((recalling none).reading .recallAll 1 (tallyWith 2 0)) ∧
    (recalling none).ownRecord ⟨1, 0, 0, .recallAll⟩ 0 (newRecord .recallAll 0 none [] .none) ∧
    (recalling none).homedHere 0 = some 0 ∧
    (recalling none).takesEffect ⟨1, 0, 0, .recallAll⟩ ((recalling none).reading .recallAll 1 (tallyWith 2 0))
      = true ∧
    (recalling none).reservedHome = none ∧ (recalling none).reservedSupply = none ∧
    ((recalling none).loanOf 0).map (·.heldBy) = some none ∧
    ((recalling (some 3)).reading .recallAll 1 (tallyWith 2 3)).holder = some 3 ∧
    after (.recallAllTally (tallyWith 2 0)) (recalling none) (fun u => u.positions[0] = .free &&
      ((u.loanWay 0).entry).isNone) = true ∧
    after (.recallAllTally (tallyWith 2 3)) (recalling (some 3)) (fun u => (u.recordAt 0).any fun r =>
      r.supplier = some 3 && r.deadline) = true ∧
    after (.recallAllTally (tallyWith 2 0)) (recalling (some 3)) (fun u => u.faults =
      [⟨.loanMismatch, some 3, some 0, none⟩]) = true ∧
    after (.recallReadTally (tallyWith 1 3)) (ownTenure (lent 0 (some 3) none false true)
      (newRecord .recallRead 0 none [] .none) .recallRead) (fun u => (u.recordAt 0).any fun r =>
        r.supplier = some 3) = true := by
  refine ⟨canonical_of (by decide +kernel), canonical_of (by decide +kernel), atTally_of 1 (by decide +kernel),
    ownRecord_of (by decide +kernel), ?_⟩
  decide +kernel

/-- A FETCH of line 1 at its tally, with r retries, its READ waiting, in a pool with or without its home. -/
def retrying (r : Nat) (present : StationSet) : State :=
  let s := withRequest (copyOf .filling false false) 3 (.read 64 1) (.onRecord 0)
  ownTenure { s with members := { s.members with present := present } }
    { newRecord .fetch 1 (some 4) [3] .none with retry := r } .fetch

theorem witness_TenureWithoutEffect :
    lineKind .fetch = true ∧
    (retrying 30 6).atTally ⟨1, 0, 1, .fetch⟩ (some (.offer (.record 0))) (tallyWith 4 0)
      ((retrying 30 6).reading .fetch 1 (tallyWith 4 0)) ∧
    (retrying 31 2).atTally ⟨1, 0, 1, .fetch⟩ (some (.offer (.record 0))) (tallyWith 0 4)
      ((retrying 31 2).reading .fetch 1 (tallyWith 0 4)) ∧
    (retrying 30 6).ownRecord ⟨1, 0, 1, .fetch⟩ 0 { newRecord .fetch 1 (some 4) [3] .none with retry := 30 } ∧
    (retrying 30 6).homedHere 1 = none ∧
    ((retrying 30 6).reading .fetch 1 (tallyWith 4 0)).hasRetry = true ∧
    ((retrying 30 6).reading .fetch 1 (tallyWith 4 0)).holders.length < 2 ∧
    (retrying 30 6).homeSilent 1 ((retrying 30 6).reading .fetch 1 (tallyWith 4 0)) = false ∧
    (retrying 31 2).homeSilent 1 ((retrying 31 2).reading .fetch 1 (tallyWith 0 4)) = true ∧
    (30 : Nat) + 1 < 32 ∧ 32 ≤ (31 : Nat) + 1 ∧
    after (.fetchTally (tallyWith 4 0)) (retrying 30 6) (fun u => (u.recordAt 0).any fun r =>
      r.retry = 31 && r.phase = .waitingBus) = true ∧
    after (.fetchTally (tallyWith 4 0)) (retrying 31 6) (fun u => u.entry 3 = .done .contended [] &&
      (u.slotAt 4).state = .void && u.positions[0] = .free) = true ∧
    after (.fetchTally (tallyWith 0 4)) (retrying 31 2) (fun u => u.entry 3 = .done .homeAbsent []) = true := by
  refine ⟨by decide, atTally_of 1 (by decide +kernel), atTally_of 1 (by decide +kernel),
    ownRecord_of (by decide +kernel), ?_⟩
  decide +kernel

/-! ### Tallies of other stations -/

/-- Station 3's tenure on line 1, answered HOLD with supply entry 0 reserved. -/
def snooped (body : Body) : State :=
  let s := copyOf .held true false
  during { s with supply := { s.supply with entries := s.supply.entries.set 0 (.reserved 3 body.kind 1 2) } }
    ⟨3, 2, 1, body⟩ none 3

theorem witness_SnoopedTenureActsOnTheSlot :
    (snooped .fetch).canonical ∧ (snooped .fetch).state ≠ .leaving ∧ actsOnSlots .fetch = true ∧
    (snooped .fetch).atTally ⟨3, 2, 1, .fetch⟩ none (tallyWith 1 1)
      ((snooped .fetch).reading .fetch 3 (tallyWith 1 1)) ∧
    (snooped .fetch).homedHere 1 = none ∧
    (snooped .fetch).takesEffect ⟨3, 2, 1, .fetch⟩ ((snooped .fetch).reading .fetch 3 (tallyWith 1 1)) = true ∧
    (snooped .fetch).slotOf 1 = some 4 ∧ ((snooped .fetch).slotAt 4).state = .held ∧
    (snooped .fetch).reservedSupply = some 0 ∧
    after (.fetchTally (tallyWith 1 1)) (snooped .fetch) (fun u => (u.slotAt 4).state = .read &&
      !(u.slotAt 4).dirty && match u.supply.entries[0] with
        | .ready d => d.data.target = 3 && d.data.alsoHome && d.data.words = (words 0x100).toList && d.tag = 2
        | _ => false) = true ∧
    after (.fetchOwnTally (tallyWith 1 1)) (snooped .fetchOwn) (fun u => (u.slotAt 4).state = .void &&
      match u.supply.entries[0] with
        | .ready d => d.data.target = 3 && d.data.dirty && !d.data.alsoHome
        | _ => false) = true ∧
    after (.writeThroughTally (tallyWith 1 1)) (during (copyOf .read false false)
      ⟨3, 0, 1, .writeThrough 1 false 1 (words 0)⟩ none 2) (fun u => (u.slotAt 4).state = .void) = true := by
  refine ⟨canonical_of (by decide +kernel), by decide +kernel, by decide, atTally_of 3 (by decide +kernel), ?_⟩
  decide +kernel

/-- A RETURN of station 2 to line 2 (index 1). -/
def returned : State := during pool ⟨2, 0, 2, .ret (words 1)⟩ none 1

theorem witness_TenuresWriteTheHomeMemory :
    returned.canonical ∧
    returned.atTally ⟨2, 0, 2, .ret (words 1)⟩ none (tallyWith 1 0) (returned.reading .ret 1 (tallyWith 1 0)) ∧
    returned.homedHere 2 = some 1 ∧
    returned.takesEffect ⟨2, 0, 2, .ret (words 1)⟩ (returned.reading .ret 1 (tallyWith 1 0)) = true ∧
    returned.bank.run = none ∧ returned.loanOf 1 = none ∧
    after (.returnTally (tallyWith 1 0)) returned (fun u => readLine u.bank.mem 1 = words 1 &&
      readLine u.bank.mem 0 = lineZero && readLine u.bank.mem 2 = lineZero) = true ∧
    after (.writeThroughTally (tallyWith 1 0)) (during pool ⟨2, 0, 2, .writeThrough 2 false 0x30 (words 7)⟩ none 1)
      (fun u => u.bank.mem = [(68, 8)]) = true := by
  refine ⟨canonical_of (by decide +kernel), atTally_of 1 (by decide +kernel), ?_⟩
  decide +kernel

/-- Station 2's FETCH of line 0, answered NONE with supply entry 0 reserved. -/
def supplying (body : Body) : State :=
  during { pool with supply := { pool.supply with
    entries := pool.supply.entries.set 0 (.reserved 2 body.kind 0 3) } } ⟨2, 3, 0, body⟩ none 1

theorem witness_HomeSuppliesFromMemory :
    (supplying .fetch).canonical ∧
    (supplying .fetch).atTally ⟨2, 3, 0, .fetch⟩ none (tallyWith 1 0)
      ((supplying .fetch).reading .fetch 1 (tallyWith 1 0)) ∧
    (supplying .fetch).homedHere 0 = some 0 ∧
    (supplying .fetch).takesEffect ⟨2, 3, 0, .fetch⟩ ((supplying .fetch).reading .fetch 1 (tallyWith 1 0)) = true ∧
    ((supplying .fetch).reading .fetch 1 (tallyWith 1 0)).holders = [] ∧ (supplying .fetch).bank.run = none ∧
    (supplying .fetch).reservedSupply = some 0 ∧ (supplying .fetch).reservedHome = none ∧
    (supplying .fetch).loanOf 0 = none ∧
    after (.fetchTally (tallyWith 1 0)) (supplying .fetch) (fun u =>
      ((u.loanWay 0).entry.map (·.holders)) = some 4 &&
      after (.supplyReadEnd false) u fun v => match v.supply.entries[0] with
        | .ready d => d.data.target = 2 && d.data.count = 16 && d.data.words.length = 16
        | _ => false) = true ∧
    after (.readDirectTally (tallyWith 1 0)) (during { pool with supply := { pool.supply with
        entries := pool.supply.entries.set 0 (.reserved 2 .readDirect 4096 3) } }
      ⟨2, 3, 4096, .readDirect 3 2⟩ none 1) (fun u => u.loans = [] &&
        after (.supplyReadEnd false) u fun v => match v.supply.entries[0] with
          | .ready d => d.data.first = 3 && d.data.words = [0, 0]
          | _ => false) = true := by
  refine ⟨canonical_of (by decide +kernel), atTally_of 1 (by decide +kernel), ?_⟩
  decide +kernel

/-- The loan updates with a single HOLD of station 3 (R128). -/
theorem witness_LoanUpdateFollowsTheTable :
    let e : LoanEntry := { freshLoan 0 0 with holders := 0x30, heldBy := some 3 }
    let rd (k : Kind) : Reading := { kind := k, tally := tallyWith 1 3 }
    (rd .writeThrough).holder = some 3 ∧ (rd .recallRead).holder = some 3 ∧ (rd .fetch).holder = some 3 ∧
    e.updated ⟨2, 0, 0, .writeThrough 1 true 1 lineZero⟩ (rd .writeThrough) =
      { e with holders := 4, heldBy := none, owedBy := some 3 } ∧
    e.updated ⟨1, 0, 0, .recallRead⟩ (rd .recallRead) = { e with holders := 8, heldBy := none } ∧
    e.updated ⟨3, 0, 0, .release⟩ (rd .release) = { e with heldBy := none } ∧
    e.updated ⟨2, 0, 0, .fetchOwn⟩ (rd .fetchOwn) = { e with holders := 0, heldBy := some 2 } := by
  decide +kernel

/-! ### DATA, membership, departures -/

/-- The DATA of station 2 for station 1's FETCH of line 1. -/
def fill : Data :=
  { target := 1, source := 2, status := 2, dirty := false, alsoHome := false, first := 0, count := 16,
    words := (words 0x200).toList }

/-- The record that waits for it. -/
def waitingFetch : Record :=
  { newRecord .fetch 1 (some 4) [3] .none with phase := .waitingData, supplier := some 2, deadline := true }

/-- Station 1 at the tally of that DATA. -/
def filling : State :=
  let s := withRequest (copyOf .filling false false) 3 (.read 64 2) (.onRecord 0)
  during (s.setPosition 0 (.holding waitingFetch)) ⟨2, 0, 1, .data fill⟩ none 1

theorem witness_LineDataFillsTheSlot :
    filling.canonical ∧ filling.state ≠ .leaving ∧ fill.target = filling.number ∧
    filling.atTally ⟨2, 0, 1, .data fill⟩ none (tallyWith 1 0) (filling.reading .data 1 (tallyWith 1 0)) ∧
    (filling.reading .data 1 (tallyWith 1 0)).silent 2 = false ∧ filling.homedHere 1 = none ∧
    filling.matchRecord ⟨2, 0, 1, .data fill⟩ fill = some waitingFetch ∧
    filling.entry 3 = .opened (.read 64 2) (.onRecord 0) ∧ fill.words.length = 16 ∧
    after (.dataTally (tallyWith 1 0)) filling (fun u => (u.slotAt 4).state = .read && (u.slotAt 4).lost &&
      u.entry 3 = .done .lostData [0x200, 0x201] && u.positions[0] = .free) = true := by
  refine ⟨canonical_of (by decide +kernel), by decide +kernel, by decide, atTally_of 1 (by decide +kernel), ?_⟩
  decide +kernel

/-- The own JOIN and the own LEAVE at their tallies. -/
def joinTenure : State := during joining ⟨1, 0, 0, .join 0 table⟩ (some (.offer .join)) 0
def leaveTenure : State := during leaving ⟨1, 0, 0, .leave⟩ (some (.offer .leave)) 1

theorem witness_OwnJoinAndLeaveTallies :
    joinTenure.state = .joining ∧ joinTenure.outstanding .join = some 0 ∧ joinTenure.walkApart 0 ∧
    leaveTenure.state = .leaving ∧ leaveTenure.outstanding .leave = some 0 ∧ leaveTenure.walkApart 0 ∧
    (joinTenure.reading .join 0 (tallyWith 5 1)).refusers ≠ 0 ∧
    (joinTenure.reading .join 0 (tallyWith 1 1)).refusers = 0 ∧
    (joinTenure.reading .join 0 (tallyWith 1 1)).presentSet &&& ~~~(single 1) = 0xC ∧
    (joinTenure.reading .join 0 (tallyWith 0 0)).presentSet &&& ~~~(single 1) = 0 ∧
    after (.joinTally (tallyWith 5 1)) joinTenure (fun u => u.state = .unjoined && !u.decoder.frozen &&
      u.entry 0 = .done .joinRefused [4]) = true ∧
    after (.joinTally (tallyWith 1 1)) joinTenure (fun u => u.state = .settling && u.members.timer &&
      u.members.present = 0xE && u.members.awaited = 0xC && u.members.changed && u.entry 0 = .done .ok []) = true ∧
    after (.joinTally (tallyWith 0 0)) joinTenure (fun u => u.state = .member && !u.members.changed &&
      u.members.present = 2) = true ∧
    after (.leaveTally (tallyWith 1 1)) leaveTenure (fun u => u.state = .unjoined && !u.decoder.frozen &&
      u.members.present = 0 && u.entry 0 = .done .ok []) = true := by
  refine ⟨by decide, by decide, walkApart_of rfl, by decide, by decide, walkApart_of rfl, ?_⟩
  decide +kernel

/-- Station 2's JOIN at its tally, in a station that holds line 3 of it HELD and dirty. -/
def joiningTwo : State := during (alone .held) ⟨2, 0, 0, .join 0 table⟩ none 1

theorem witness_JoinOfAnotherStation :
    joiningTwo.canonical ∧
    joiningTwo.atTally ⟨2, 0, 0, .join 0 table⟩ none (tallyWith 0 1) (joiningTwo.reading .join 1 (tallyWith 0 1)) ∧
    (joiningTwo.reading .join 1 (tallyWith 0 1)).refusers = 0 ∧
    (joiningTwo.reading .join 1 (tallyWith 0 5)).refusers ≠ 0 ∧
    after (.joinTally (tallyWith 0 1)) joiningTwo (fun u => u.members.present = 6 && u.members.changed &&
      (u.slotAt 12).state = .evicting && u.members.ready = [⟨2, [], [0]⟩] && u.bus.offers = [.record 0]) = true ∧
    after (.joinTally (tallyWith 0 5)) joiningTwo (fun u => u.members.present = 2 && !u.members.changed) = true ∧
    after (.joinTally (tallyWith 0 1)) (during (copyOf .read false false) ⟨2, 0, 0, .join 0 table⟩ none 1)
      (fun u => (u.slotAt 4).state = .void && u.bus.offers = [.ready 2]) = true := by
  refine ⟨canonical_of (by decide +kernel), atTally_of 1 (by decide +kernel), ?_⟩
  decide +kernel

/-- Stations 2 and 5 reply NONE. -/
def bothReply : Tally := #v[0, 0, 1, 0, 0, 1, 0, 0, 0, 0, 0, 0, 0, 0, 0, 0]

theorem witness_ReadySettlesTheStation :
    (during settling ⟨2, 0, 0, .ready 1⟩ none 1).atTally ⟨2, 0, 0, .ready 1⟩ none bothReply
      ((during settling ⟨2, 0, 0, .ready 1⟩ none 1).reading .ready 1 bothReply) ∧
    ((during settling ⟨2, 0, 0, .ready 1⟩ none 1).reading .ready 1 bothReply).silent 2 = false ∧
    settling.number = 1 ∧ settling.state = .settling ∧ inSet settling.members.awaited 2 = true ∧
    settling.members.awaited &&& ~~~(single 2) ≠ 0 ∧ (4 : StationSet) &&& ~~~(single 2) = 0 ∧
    pool.state ≠ .settling ∧
    after (.readyTally bothReply) (during settling ⟨2, 0, 0, .ready 1⟩ none 1) (fun u =>
      u.state = .settling && u.members.awaited = 0x20) = true ∧
    after (.readyTally bothReply) (during { settling with members := { settling.members with awaited := 4 } }
      ⟨2, 0, 0, .ready 1⟩ none 1) (fun u => u.state = .member && !u.members.timer) = true ∧
    after (.readyTally bothReply) (during settling ⟨2, 0, 0, .ready 3⟩ none 1) (fun u =>
      u.members.awaited = 0x24) = true := by
  refine ⟨atTally_of 1 (by decide +kernel), ?_⟩
  decide +kernel

/-- Station 3's FETCH of line 2 with station 2 silent; station 2 holds line 0 of station 1. -/
def departing : State := during (lent 0 (some 2) none false false) ⟨3, 0, 2, .fetch⟩ none 1

theorem witness_DeparturesLeaveTheMembership :
    departing.membershipLaw ∧ departing.faultsBounded ∧ departing.state.replies = true ∧
    departing.departedAt (departing.reading .fetch 1 (tallyWith 0 1)) ≠ 0 ∧
    (during pool ⟨2, 0, 0, .leave⟩ none 1).departedAt
      ((during pool ⟨2, 0, 0, .leave⟩ none 1).reading .leave 1 (tallyWith 1 0)) = 0 ∧
    inSet pool.members.present 2 = true ∧
    after (.fetchTally (tallyWith 0 1)) departing (fun u => u.members.present = 2 && u.members.changed &&
      u.faults = [⟨.lineLost, some 2, none, some 1⟩] && u.lineLost 0) = true ∧
    after (.leaveTally (tallyWith 1 0)) (during pool ⟨2, 0, 0, .leave⟩ none 1) (fun u =>
      u.members.present = 2 && u.members.changed) = true := by
  refine ⟨law_of (by decide +kernel) ?_, by unfold State.faultsBounded; decide +kernel, ?_⟩
  · intro pub d x h
    cases h
    decide
  · decide +kernel

theorem witness_UnassignedTenureHasNoEffect :
    (during pool ⟨2, 0, 0, .unassigned 15⟩ none 1).atTally ⟨2, 0, 0, .unassigned 15⟩ none (tallyWith 1 0)
      ((during pool ⟨2, 0, 0, .unassigned 15⟩ none 1).reading .unassigned 1 (tallyWith 1 0)) ∧
    after (.unassignedKindTally (tallyWith 1 0)) (during pool ⟨2, 0, 0, .unassigned 15⟩ none 1) (fun u =>
      u = pool) = true := by
  refine ⟨atTally_of 1 (by decide +kernel), by decide +kernel⟩

/-! ### Expiries, ends, follow-up steps -/

/-- Station 1's FETCH waits for its DATA, its READ waiting. -/
def overdue : State :=
  (withRequest (copyOf .filling false false) 3 (.read 64 2) (.onRecord 0)).setPosition 0 (.holding waitingFetch)

theorem witness_DeadlineExpiryFencesThePosition :
    overdue.canonical ∧ overdue.recordAt 0 = some waitingFetch ∧ waitingFetch.phase = .waitingData ∧
    waitingFetch.deadline = true ∧ waitingFetch.supplier = some 2 ∧
    waitingFetch.kind ∈ [Kind.fetch, .fetchOwn, .readDirect, .operate] ∧ overdue.state ≠ .halted ∧
    overdue.faults.length < 2 ∧ overdue.entry 3 = .opened (.read 64 2) (.onRecord 0) ∧
    after (.dataDeadlineExpiry 0) overdue (fun u => u.positions[0] = .fenced 1 2 &&
      u.entry 3 = .done .noAnswer [] && (u.slotAt 4).state = .void &&
      u.faults = [⟨.supplyOverdue, some 2, some 1, none⟩]) = true := by
  refine ⟨canonical_of (by decide +kernel), ?_⟩
  decide +kernel

theorem witness_SettleTimerExpiryMakesAMember :
    settling.state = .settling ∧ settling.members.timer = true ∧ settling.faultsBounded ∧
    settling.faults.length < 2 ∧ ({ settling with faults := [note, note] } : State).faults.length = 2 ∧
    after .settleTimerExpiry settling (fun u => u.state = .member && u.members.awaited = 0 &&
      u.faults = [⟨.settleOverdue, some 2, none, some 2⟩]) = true ∧
    after .settleTimerExpiry { settling with faults := [note, note] } (fun u => u.state = .halted) = true := by
  refine ⟨by decide, by decide, by unfold State.faultsBounded; decide, ?_⟩
  decide +kernel

/-- A supply of words 2 and 3 of line 0 for station 2, its line read under way. -/
def awaitingSupply : State :=
  let d : Supply := memoryData 1 ⟨2, 3, 0, .readDirect 2 2⟩ false 2 2
  { pool with
    supply := { pool.supply with entries := pool.supply.entries.set 2 (.awaiting d .readDirect) },
    bank := { pool.bank with inFlight := [.supplyRead (some 2) (words 0x40)] } }

theorem witness_SupplyReadEndReadiesTheEntry :
    popAccess asSupplyRead awaitingSupply.bank.inFlight = some ((some 2, words 0x40), []) ∧
    awaitingSupply.supply.entries[2] =
      .awaiting (memoryData 1 ⟨2, 3, 0, .readDirect 2 2⟩ false 2 2) .readDirect ∧
    awaitingSupply.state ≠ .halted ∧ awaitingSupply.faults.length < 2 ∧
    after (.supplyReadEnd false) awaitingSupply (fun u => u.supply.order = [2] &&
      match u.supply.entries[2] with
        | .ready d => d.data.words = [0x42, 0x43] && d.data.status = 0
        | _ => false) = true ∧
    after (.supplyReadEnd true) awaitingSupply (fun u => match u.supply.entries[2] with
        | .ready d => d.data.words = [0, 0] && d.data.status = 3
        | _ => false) = true := by decide +kernel

/-- A joiner's return waits for a position, and so does a READ. -/
def granting : State :=
  let s := withRequest (copyOf .held true false) 3 (.read 0x10000 1) .position
  { s with members := { s.members with ready := [⟨2, [4], []⟩] } }

theorem witness_ReturnIsGrantedFirst :
    granting.canonical ∧ granting.freePosition = some 0 ∧ granting.state ≠ .leaving ∧
    granting.members.ready.findSome? (fun e => e.listed.head?) = some 4 ∧
    after .positionGrant granting (fun u => (u.slotAt 4).state = .evicting &&
      u.recordAt 0 = some (newRecord .ret 1 (some 4) [] .none) &&
      after .positionGrant u fun v => v.recordAt 1 = some (newRecord .fetch 1024 (some 0) [3] .none)) = true := by
  refine ⟨canonical_of (by decide +kernel), ?_⟩
  decide +kernel

/-- A READ held back on its line. -/
def heldRead : State := withRequest (copyOf .read false false) 3 (.read 64 1) .line

theorem witness_HeldBackReadIsTakenUp :
    heldRead.canonical ∧ heldRead.state = .member ∧ heldRead.entry 3 = .opened (.read 64 1) .line ∧
    heldRead.resolve 64 = some (resOf pool 64) ∧ (resOf pool 64).entry.mode ≠ .priv ∧
    (resOf pool 64).copied ∧ heldRead.heldBack 3 (resOf pool 64).line = false ∧
    heldRead.slotlessRecord (resOf pool 64).line = false ∧ heldRead.slotOf (resOf pool 64).line = some 4 ∧
    (heldRead.slotAt 4).state = .read ∧
    after (.waitingRequestResumed 3) heldRead (fun u => u.entry 3 = .done .ok [0x100]) = true := by
  refine ⟨canonical_of (by decide +kernel), by decide +kernel, by decide +kernel, by decide +kernel,
    by decide +kernel, copied_of (by decide +kernel), ?_⟩
  decide +kernel

theorem witness_DrainOffersLeave :
    leaving.state = .leaving ∧ Offer.leave ∉ leaving.bus.offers ∧ leaving.outstanding .leave = some 0 ∧
    leaving.drained 0 = true ∧ after .drainComplete leaving (fun u => u.bus.offers = [.leave]) = true := by
  decide +kernel

/-! ### Words at the port -/

/-- Section 11.2: words of requests and what they spell; a COND_STORE with stray bits in fields it does not
use, the codes 0, 17 and 31, and words that are too few. -/
theorem test_port_words :
    decodePort [0x201, 0x44] = some (.read 0x44 2) ∧
    decodePort [0x102, 0x44, 0xF, 0, 9] = some (.write 0x44 1 0xF [9]) ∧
    decodePort [0xFFF20003, 0x40, 0x44, 7] = some (.condStore 0x40 0x44 7 .nonzero) ∧
    decodePort [0x80004, 0x40, 2, 3] = some (.accumulate 0x40 2 3 .subSigned) ∧
    decodePort [0x10205, 0x40, 8, 9] = some (.push 0x40 true 2 [8, 9]) ∧
    decodePort [0x1, 0x40] = some (.read 0x40 0) ∧ decodePort [0x0B, 3] = some (.apertureRead 3) ∧
    decodePort [0x10, 0] = some .ackMembership ∧ decodePort [0x20, 0] = some (.unknownRequestKind 0) ∧
    decodePort [0x11, 0] = some (.unknownRequestKind 17) ∧
    decodePort [0x1F, 0, 5] = some (.unknownRequestKind 31) ∧ decodePort [0x103, 0x40, 1] = none ∧
    (pool.withPortWords [0x0A, 0]).pending = [.flushAll] ∧
    (decodePort [0x13, 0]).map Instr.wellFormed = some true := by decide +kernel

/-- Section 11.2: the words of an offered completion. -/
theorem test_completion_words :
    completionWords 5 .lostData [7, 8] = [0x20205, 7, 8] ∧ completionWords 0 .retainedLines [1] =
      [0x11400, 1] := by decide +kernel

/-! ### Requests of a full set, and completions in the order taken -/

/-- A READ of line 513 that waits for a way of set 1, in whose slot 5 line 1025 is HELD; the other ways are
filling. -/
def waysTaken : State :=
  let v (l : LineAddr) (st : SlotState) : Slot :=
    { line := l, state := st, dirty := false, lost := false, rank := 0, words := lineZero }
  let s := (((pool.setSlot 4 (v 1 .filling)).setSlot 5 (v 0x401 .held)).setSlot 6 (v 3073 .filling)).setSlot 7
    (v 3585 .filling)
  withRequest s 3 (.read 0x8040 1) (.setWay false)

/-- R77: a READ that waits for a way of its set is not handled anew until one leaves its transient state; when
one has, it is due, and it is ahead of later requests of the set. -/
theorem test_setWay :
    waysTaken.setQueued 4 1537 = false ∧ (waysTaken.wayLeft 4).setQueued 4 1537 = true ∧
    (waysTaken.wayLeft 8).setQueued 4 1537 = false ∧
    after (.waitingRequestResumed 3) waysTaken (fun u => u = waysTaken) = true := by decide +kernel

/-- R174, log entry 22: a departure that closes the flush walk's last record ends the walk ahead of the
LINE_LOST notice that halts the station. -/
theorem test_walk_ends_before_halt :
    let s := withRecord (copyOf .evicting true false) 0 (newRecord .ret 1 (some 4) [] .none)
    let s := withRequest s 3 .flushAll .walk
    let e : LoanEntry := { freshLoan 0 0 with heldBy := some 2 }
    let s := (s.setLoanWay 0 { rank := 0, entry := some e })
    let s : State := { s with copy := { s.copy with walk := some ⟨3, [], [0], false⟩ }, faults := [note, note] }
    after (.unassignedKindTally (tallyWith 0 0)) (during s ⟨3, 0, 0, .unassigned 0⟩ none 1) (fun u =>
      u.state = .halted && u.entry 3 = .done .ok [1]) = true := by decide +kernel

/-- R164: a FLUSH_ALL taken up with nothing to flush, and a FLUSH_LINE taken after it that its step hands a
position, complete in the order taken. -/
theorem test_walk_completes_in_taken_order :
    let s := withRequest (withRequest pool 3 .flushAll .walkWait) 4 (.flushLine 64) .position
    after (.waitingRequestResumed 3) s (fun u => u.port.completions = [3, 4] &&
      u.entry 3 = .done .ok [0] && u.entry 4 = .done .ok []) = true := by decide +kernel

/-! ### More states that meet the hypotheses of the statements -/

/-- For StationStateFollowsTable: UNJOINED with an access of nobody's under way and a command open. -/
theorem witness_UnjoinedLaw :
    let s : State := { fresh with
      bank := { fresh.bank with inFlight := [.localStore none] },
      port := { fresh.port with entries := fresh.port.entries.set 0 (.opened .ackFault (.stream none)),
                                taken := [0] } }
    s.unjoinedLaw ∧ s.membershipLaw ∧ s.faultsBounded := by
  refine ⟨fun _ => by decide +kernel, law_of (by decide +kernel) ?_, by unfold State.faultsBounded; decide⟩
  intro pub d x h
  cases h

/-- For LocalAccessEnds: an access whose tag is gone, a read and a write; and a request with a home queue
entry. -/
theorem witness_LocalAccessEnds_untagged :
    let s : State := { pool with bank := { pool.bank with inFlight := [.localStore none, .localRead none true [9]] } }
    popAccess asLocalRead s.bank.inFlight = some ((none, true, [9]), [.localStore none]) ∧
    popAccess asLocalStore s.bank.inFlight = some (none, [.localRead none true [9]]) ∧
    after (.localHomeReadEnd true) s (fun u => u.bank.inFlight = [.localStore none] && u.faults = []) = true ∧
    after .memoryWriteEnd s (fun u => u.bank.inFlight = [.localRead none true [9]]) = true ∧
    (accessing.setHome 5 (.request 0 3 .acting)).homeOf 3 = some 5 ∧
    after (.localHomeReadEnd false) (accessing.setHome 5 (.request 0 3 .acting)) (fun u =>
      u.homeQueue.entries[5] = .free) = true := by decide +kernel

/-- Station 1 with the run of station 2's OPERATE on line 0 under way, in home queue entry 1 and supply
entry 2. -/
def runningFor (refusal : Option Status) : State :=
  let op : Operation := .accumulate 0 2 3 .addUnsigned
  let s := pool.setHome 1 (.operation 0 2 3 op none false 2)
  let s := s.setSupply 2 (.awaiting (memoryData 1 ⟨2, 3, 0, .operate op⟩ false 0 0) .operate)
  { s with bank := { s.bank with run := some ⟨.operation 1, operationOp op 0, 0, false, refusal⟩ } }

/-- The result DATA of that run. -/
def resultIs (u : State) (status : BitVec 5) (ws : List Word) : Bool :=
  match u.supply.entries[2] with
  | .ready d => d.data.status = status && d.data.words = ws && d.data.count.toNat = ws.length
  | _ => false

theorem witness_OperationRunEnds_operate :
    (runningFor none).canonical ∧ (runningFor none).bank.held = [] ∧ (runningFor none).state ≠ .halted ∧
    (runningFor none).faults.length < 2 ∧ (runningFor none).resolveLine 0 = some (resOf pool 0) ∧
    after (.operationRunEnd false) (runningFor none) (fun u => u.bank.mem = [(0, 6)] &&
      resultIs u 0 [6, 0] && u.homeQueue.entries[1] = .free && u.supply.order = [2]) = true ∧
    after (.operationRunEnd true) (runningFor none) (fun u => u.bank.mem = [] && resultIs u 3 [0] &&
      u.faults = [⟨.memoryError, some 2, some 0, none⟩]) = true ∧
    after (.operationRunEnd true) (runningFor (some .misaligned)) (fun u => u.bank.mem = [] &&
      resultIs u 9 [0] && u.faults = []) = true := by
  refine ⟨canonical_of (by decide +kernel), ?_⟩
  decide +kernel

/-- For TenureWithoutEffect: the home silent and no RETRY; two HOLDs, with room for the notice and without. -/
theorem witness_TenureWithoutEffect_more :
    (retrying 0 2).atTally ⟨1, 0, 1, .fetch⟩ (some (.offer (.record 0))) (tallyWith 0 1)
      ((retrying 0 2).reading .fetch 1 (tallyWith 0 1)) ∧
    (retrying 0 2).homeSilent 1 ((retrying 0 2).reading .fetch 1 (tallyWith 0 1)) = true ∧
    ((retrying 0 2).reading .fetch 1 (tallyWith 0 1)).hasRetry = false ∧
    ((retrying 0 6).reading .fetch 1 (tallyWith 3 3)).holders.length = 2 ∧
    (retrying 0 6).homeSilent 1 ((retrying 0 6).reading .fetch 1 (tallyWith 3 3)) = false ∧
    after (.fetchTally (tallyWith 0 1)) (retrying 0 2) (fun u => u.entry 3 = .done .homeAbsent []) = true ∧
    after (.fetchTally (tallyWith 3 3)) (retrying 0 6) (fun u => u.bus.offers = [.record 0] &&
      u.faults = [⟨.tallyConflict, none, some 1, none⟩]) = true ∧
    after (.fetchTally (tallyWith 3 3)) { retrying 0 6 with faults := [note, note] } (fun u =>
      u.state = .halted) = true := by
  refine ⟨atTally_of 1 (by decide +kernel), ?_⟩
  decide +kernel

/-- For SnoopedTenureActsOnTheSlot: a CLAIM on a READ copy; an UPGRADING one kept and turned; an EVICTING one
overtaken by a RECALL_READ, with a WRITE_THROUGH's bytes on a HELD one. -/
theorem witness_SnoopedTenureActsOnTheSlot_more :
    let up (body : Body) : State :=
      during (withRecord (copyOf .upgrading false true) 0 (newRecord .claim 1 (some 4) [3] .none)) ⟨3, 2, 1, body⟩
        none 2
    let ev : State := ((snooped .recallRead).setSlot 4
      { (snooped .recallRead).slotAt 4 with state := .evicting }).setPosition 1
        (.holding (newRecord .ret 1 (some 4) [] .none))
    (up .claim).takesEffect ⟨3, 2, 1, .claim⟩ ((up .claim).reading .claim 2 (tallyWith 1 1)) = true ∧
    (up .claim).recordOf 1 = some (0, newRecord .claim 1 (some 4) [3] .none) ∧
    ev.recordOf 1 = some (1, newRecord .ret 1 (some 4) [] .none) ∧ ev.successorOf 4 = none ∧
    ev.reservedSupply = some 0 ∧ (ev.slotAt 4).state = .evicting ∧
    after (.claimTally (tallyWith 1 1)) (during (copyOf .read false false) ⟨3, 2, 1, .claim⟩ none 2) (fun u =>
      (u.slotAt 4).state = .void) = true ∧
    after (.fetchTally (tallyWith 1 1)) (up .fetch) (fun u => (u.slotAt 4).state = .upgrading) = true ∧
    after (.claimTally (tallyWith 1 1)) (up .claim) (fun u => (u.slotAt 4).state = .owning &&
      u.recordAt 0 = some (newRecord .fetchOwn 1 (some 4) [3] .none)) = true ∧
    after (.recallReadTally (tallyWith 1 1)) ev (fun u => (u.slotAt 4).state = .void &&
      u.positions[1] = .free && match u.supply.entries[0] with
        | .ready d => d.data.target = 2 && !d.data.alsoHome && !d.data.dirty
        | _ => false) = true ∧
    after (.writeThroughTally (tallyWith 1 1)) (snooped (.writeThrough 1 false 1 (words 0x2AA))) (fun u =>
      match u.supply.entries[0] with
        | .ready d => d.data.alsoHome && d.tag = 0 && d.data.words[0]? = some 0x1AA && d.data.words[1]? = some 0x101
        | _ => false) = true := by decide +kernel

/-- A DATA of station 2 for line 0, homed here. -/
def homeData (target : Station) (status : BitVec 5) (alsoHome : Bool) : Data :=
  { target := target, source := 2, status := status, dirty := false, alsoHome := alsoHome, first := 0,
    count := 16, words := (words 0x300).toList }

/-- The recall that waits for it, and the OPERATE entry that does. -/
def waitingRecall : Record :=
  { newRecord .recallAll 0 none [] .none with phase := .waitingData, supplier := some 2, deadline := true }

/-- Station 1 at the tally of that DATA, its recall in position 1. -/
def recalled (d : Data) : State :=
  during ((lent 0 none none false true).setPosition 1 (.holding waitingRecall)) ⟨2, 1, 0, .data d⟩ none 1

/-- The same with an OPERATE that awaits it in home queue entry 3. -/
def holding (d : Data) : State :=
  during ((lent 0 none none false false).setHome 3 (.operation 0 5 2 (.pop 0 1) (some 2) false 1))
    ⟨2, 1, 0, .data d⟩ none 1

/-- For TenuresWriteTheHomeMemory: recall data, good and not; the write-back copy of the owed_by station;
holder data, good and not. -/
theorem witness_TenuresWriteTheHomeMemory_data :
    (recalled (homeData 1 2 false)).canonical ∧ (holding (homeData 1 0 false)).canonical ∧
    (recalled (homeData 1 2 false)).atTally ⟨2, 1, 0, .data (homeData 1 2 false)⟩ none (tallyWith 1 0)
      ((recalled (homeData 1 2 false)).reading .data 1 (tallyWith 1 0)) ∧
    ((recalled (homeData 1 2 false)).reading .data 1 (tallyWith 1 0)).silent 2 = false ∧
    (recalled (homeData 1 2 false)).matchRecord ⟨2, 1, 0, .data (homeData 1 2 false)⟩ (homeData 1 2 false) =
      some waitingRecall ∧
    (holding (homeData 1 0 false)).matchRecord ⟨2, 1, 0, .data (homeData 1 0 false)⟩ (homeData 1 0 false) = none ∧
    (holding (homeData 1 0 false)).matchFence ⟨2, 1, 0, .data (homeData 1 0 false)⟩ (homeData 1 0 false) = false ∧
    (holding (homeData 1 0 false)).awaitingOperation 0 2 = some 3 ∧
    after (.dataTally (tallyWith 1 0)) (recalled (homeData 1 2 false)) (fun u =>
      readLine u.bank.mem 0 = words 0x300 && u.positions[1] = .free && u.lineLost 0) = true ∧
    after (.dataTally (tallyWith 1 0)) (recalled (homeData 1 3 false)) (fun u =>
      u.bank.mem = [] && u.positions[1] = .free && u.lineLost 0) = true ∧
    after (.dataTally (tallyWith 1 0)) (during (lent 8 none (some 2) false false)
      ⟨2, 0, 0, .data (homeData 3 0 true)⟩ none 1) (fun u => readLine u.bank.mem 0 = words 0x300 &&
        (u.loanOf 0).map (·.owedBy) = some none) = true ∧
    after (.dataTally (tallyWith 1 0)) (holding (homeData 1 0 false)) (fun u =>
      readLine u.bank.mem 0 = words 0x300 && u.bank.run.isSome &&
      u.homeQueue.entries[3] = .operation 0 5 2 (.pop 0 1) none false 1) = true ∧
    after (.dataTally (tallyWith 1 0)) (holding (homeData 1 3 false)) (fun u =>
      u.bank.mem = [] && u.bank.run.isSome && u.lineLost 0) = true := by
  refine ⟨canonical_of (by decide +kernel), canonical_of (by decide +kernel), atTally_of 1 (by decide +kernel), ?_⟩
  decide +kernel

/-- Station 2's OPERATE on line 0, its two entries reserved. -/
def operating : State :=
  let pub : Publication := ⟨2, 3, 0, .operate (.accumulate 1 2 3 .addSigned)⟩
  during ((pool.setSupply 0 (.reserved 2 .operate 0 3)).setHome 2 (.reserved 2 0 3)) pub none 1

/-- For HomeSuppliesFromMemory: an OPERATE with no HOLD, which the home refuses by its own check, and with
one. -/
theorem witness_HomeSuppliesFromMemory_operate :
    operating.canonical ∧ operating.homedHere 0 = some 0 ∧ operating.reservedSupply = some 0 ∧
    operating.reservedHome = some 2 ∧ operating.loanOf 0 = none ∧ operating.bank.run = none ∧
    (operating.reading .operate 1 (tallyWith 1 0)).holder = none ∧
    (operating.reading .operate 1 (tallyWith 1 3)).holder = some 3 ∧
    after (.operateTally (tallyWith 1 0)) operating (fun u =>
      u.homeQueue.entries[2] = .operation 0 2 3 (.accumulate 1 2 3 .addSigned) none false 0 &&
      (u.bank.run.map (·.refusal)) = some (some .misaligned)) = true ∧
    after (.operateTally (tallyWith 1 3)) operating (fun u =>
      u.homeQueue.entries[2] = .operation 0 2 3 (.accumulate 1 2 3 .addSigned) (some 3) false 0 &&
      u.bank.run.isNone) = true := by
  refine ⟨canonical_of (by decide +kernel), ?_⟩
  decide +kernel

/-- For LoanUpdateFollowsTheTable: the entry updated, freed, allocated, and a mismatch of either case. -/
theorem witness_LoanUpdateFollowsTheTable_tally :
    let at2 (s : State) (body : Body) : State := during s ⟨2, 3, 0, body⟩ none 1
    (at2 (lent 0x28 none none false false) .fetch).canonical ∧
    (at2 (lent 0x28 none none false false) .fetch).atTally ⟨2, 3, 0, .fetch⟩ none (tallyWith 1 1)
      ((at2 (lent 0x28 none none false false) .fetch).reading .fetch 1 (tallyWith 1 1)) ∧
    (at2 (lent 0x28 none none false false) .fetch).loanKey 0 = some 0 ∧ pool.loanKey 0 = none ∧
    pool.freeWays 0 = [0, 1, 2, 3, 4, 5, 6, 7] ∧
    loanMismatch ⟨2, 3, 0, .fetch⟩ { kind := .fetch, tally := tallyWith 1 1 } 3 ∧
    loanMismatch ⟨2, 3, 0, .claim⟩ { kind := .claim, tally := tallyWith 1 1 } 2 ∧
    ¬ loanMismatch ⟨2, 3, 0, .release⟩ { kind := .release, tally := tallyWith 1 1 } 2 ∧
    after (.fetchTally (tallyWith 1 1)) (at2 (lent 0x28 none none false false) .fetch) (fun u =>
      (u.loanOf 0).map (·.holders) = some 0x24) = true ∧
    after (.releaseTally (tallyWith 1 0)) (at2 (lent 0 (some 2) none false false) .release) (fun u =>
      u.loans = []) = true ∧
    after (.fetchOwnTally (tallyWith 1 0)) (at2 pool .fetchOwn) (fun u =>
      (u.loanOf 0).map (·.heldBy) = some (some 2)) = true ∧
    after (.fetchTally (tallyWith 1 1)) (at2 (lent 0 (some 3) none false false) .fetch) (fun u =>
      u.lineLost 0 && u.faults = [⟨.loanMismatch, some 3, some 0, none⟩]) = true ∧
    after (.claimTally (tallyWith 1 0)) { at2 (lent 0 (some 2) none false false) .claim with
      faults := [note, note] } (fun u => u.state = .halted) = true := by
  refine ⟨canonical_of (by decide +kernel), atTally_of 1 (by decide +kernel), ?_⟩
  unfold loanMismatch
  decide +kernel

/-- Eight entries in set 0, lines 0, 128, 256 and so on, each held by station 2; that in way 5 of rank 7. -/
def exhausted : State :=
  (List.range 8).foldl (fun s k =>
    let e : LoanEntry := { freshLoan (64 * k) (BitVec.ofNat 26 (128 * k)) with heldBy := some 2 }
    s.setLoanWay k { rank := Fin.ofNat 8 (k + 2), entry := some e }) pool

/-- For HomeReplyFollowsItsCauses: the ninth line of the set, its recall, and the tally of its FETCH. Lines past
1023 are out of the window, so the table's first window is larger. -/
def exhaustedHome : State :=
  { exhausted with decoder := { exhausted.decoder with
      table := exhausted.decoder.table.set 0 { win 0 .coherentWB 1 1 2 0 with sizeCode := 1 } } }

theorem witness_HomeReplyFollowsItsCauses_exhaustion :
    exhaustedHome.canonical ∧ exhaustedHome.homedHere 1024 = some 512 ∧ exhaustedHome.loanKey 512 = none ∧
    exhaustedHome.freeWays 512 = [] ∧ 5 ∈ loanWays 512 ∧ exhaustedHome.loanKey 320 = some 5 ∧
    (exhaustedHome.loanWay 5).rank = 7 ∧ exhaustedHome.idlePosition = some 0 ∧
    after (.publication ⟨2, 3, 1024, .fetch⟩) exhaustedHome (fun u =>
      u.bus.phase = .tenure ⟨2, 3, 1024, .fetch⟩ none 4 (some 0) &&
      u.recordAt 0 = some (newRecord .recallAll 640 none [] .exhausted) &&
      ((u.loanWay 5).entry.map (·.busy)) = some true && u.bus.offers = [] &&
      after (.fetchTally (tallyWith 1 0)) u (fun v => v.bus.offers = [.record 0]) &&
      after (.fetchTally (tallyWith 0 0)) u fun v => v.positions[0] = .free && v.members.present = 2 &&
        ((v.loanWay 5).entry.map fun e => (e.busy, e.lost, e.heldBy)) = some (false, true, none) &&
        v.faults = [⟨.lineLost, some 2, none, some 8⟩]) = true := by
  refine ⟨canonical_of (by decide +kernel), ?_⟩
  decide +kernel

/-- Station 1's record in position 0 with tags waits for that DATA of station 2. -/
def awaiting (kind : Kind) (r : Request) (tags : List Tag) (slot : Option Nat) (d : Data) : State :=
  let rec0 : Record := { newRecord kind 1 slot tags .none with
    phase := .waitingData, supplier := some 2, deadline := true }
  let s := withRequest (withRequest (copyOf .owning false false) 3 r (.onRecord 0)) 5 (.read 64 2) (.onRecord 0)
  during (s.setPosition 0 (.holding rec0)) ⟨2, 0, 1, .data d⟩ none 1

/-- For LineDataFillsTheSlot: a WRITE before a READ; a READ_DIRECT; an OPERATE, good and not; a fence. -/
theorem witness_LineDataFillsTheSlot_more :
    (awaiting .fetchOwn (.write 64 1 0xF [9]) [3, 5] (some 4) fill).canonical ∧
    (awaiting .fetchOwn (.write 64 1 0xF [9]) [3, 5] (some 4) fill).atTally ⟨2, 0, 1, .data fill⟩ none
      (tallyWith 1 0) ((awaiting .fetchOwn (.write 64 1 0xF [9]) [3, 5] (some 4) fill).reading .data 1
        (tallyWith 1 0)) ∧
    wholeLineData fill ∧
    after (.dataTally (tallyWith 1 0)) (awaiting .fetchOwn (.write 64 1 0xF [9]) [3, 5] (some 4) fill) (fun u =>
      u.entry 3 = .done .ok [] && u.entry 5 = .done .lostData [9, 0x201] && (u.slotAt 4).dirty) = true ∧
    after (.dataTally (tallyWith 1 0)) (awaiting .readDirect (.read 0x20000 1) [3] none
      { fill with status := 0, first := 15, count := 1, words := [7] }) (fun u =>
        u.entry 3 = .done .ok [7] && u.positions[0] = .free) = true ∧
    after (.dataTally (tallyWith 1 0)) (awaiting .readDirect (.read 0x20000 1) [3] none
      { fill with status := 0, first := 15, count := 2, words := [7, 8] }) (fun u =>
        u.entry 3 = .done .memoryError []) = true ∧
    after (.dataTally (tallyWith 1 0)) (awaiting .operate (.operation (.pop 0x20000 1)) [3] none
      { fill with status := 12, count := 1, words := [7] }) (fun u => u.entry 3 = .done .stackHigh [7]) = true ∧
    after (.dataTally (tallyWith 1 0)) (awaiting .operate (.operation (.pop 0x20000 1)) [3] none
      { fill with status := 21, count := 1, words := [7] }) (fun u => u.entry 3 = .done .memoryError [0]) = true ∧
    after (.dataTally (tallyWith 1 0)) (during (pool.setPosition 0 (.fenced 1 2)) ⟨2, 0, 1, .data fill⟩ none 1)
      (fun u => u = pool) = true := by
  refine ⟨canonical_of (by decide +kernel), atTally_of 1 (by decide +kernel), by unfold wholeLineData; decide, ?_⟩
  decide +kernel

/-- For JoinOfAnotherStation: no position free; a dirty copy of the joiner's line is listed, its eviction
record owed, a READ copy dropped. -/
theorem witness_JoinOfAnotherStation_full :
    let r : Record := newRecord .release 5 (some 20) [] .none
    let v : Slot := { line := 7, state := .read, dirty := false, lost := false, rank := 0, words := words 0 }
    let s : State := { joiningTwo.setSlot 28 v with
      positions := #v[.holding r, .fenced 1 2, .reserved (.head 3), .fenced 1 2] }
    s.canonical ∧ s.freePosition = none ∧ (s.reading .join 1 (tallyWith 0 1)).refusers = 0 ∧
    after (.joinTally (tallyWith 0 1)) s (fun u => u.members.ready = [⟨2, [12], [0]⟩] &&
      (u.slotAt 28).state = .void && (u.slotAt 12).state = .held) = true := by
  refine ⟨canonical_of (by decide +kernel), ?_⟩
  decide +kernel

/-- Station 1 with stations 2 and 3; a READ copy of line 1 (homed at 2) in slot 4, a FETCH of line 3 (homed at 2)
with tag 3, a recall of line 0 that waits for station 2, a fence of station 2, and an OPERATE on line 2 that
awaits station 2. -/
def leftBy2 (st : StationState) : State :=
  let s := withRequest { copyOf .read false false with state := st } 3 (.read 192 1) (.onRecord 0)
  let s := s.setLoanWay 0 { rank := 0, entry := some { freshLoan 0 0 with heldBy := some 2, holders := 0xC } }
  let s := s.setHome 4 (.operation 2 5 1 (.pop 0 1) (some 2) false 1)
  let r2 : Record := { newRecord .recallRead 0 none [] .none with phase := .waitingData, supplier := some 2 }
  { s with
    members := { s.members with present := 0xE, awaited := if st = .settling then 4 else 0,
                                timer := decide (st = .settling) },
    positions := #v[.holding (newRecord .fetch 3 (some 12) [3] .none), .holding r2, .fenced 1 2, .free] }

/-- The departure of station 2 at the tally of station 3's tenure of unassigned kind. -/
def leaves (s : State) : State := during s ⟨3, 0, 0, .unassigned 0⟩ none 1

/-- For DeparturesLeaveTheMembership: each effect of a departure. -/
theorem witness_Departures_effects :
    let s := leaves (leftBy2 .member)
    s.canonical ∧ s.membershipLaw ∧ s.faultsBounded ∧
    s.departsAt ⟨3, 0, 0, .unassigned 0⟩ (s.reading .unassigned 1 (tallyWith 0 1)) 4 ∧
    s.unnamed 4 ∧ s.waitsOnlyOn 3 0 ∧ s.namedOnlyBy 12 0 ∧ s.homedIn 4 1 = true ∧ s.lossesTo 2 = 1 ∧
    after (.unassignedKindTally (tallyWith 0 1)) s (fun u => (u.slotAt 4).state = .void &&
      u.entry 3 = .done .homeAbsent [] && u.positions[0] = .free && u.positions[1] = .free &&
      u.positions[2] = .free && u.lineLost 0 && (u.loanOf 0).map (·.holders) = some 8 &&
      u.homeQueue.entries[4] = .operation 2 5 1 (.pop 0 1) none true 1 && u.bank.run.isSome &&
      u.faults = [⟨.lineLost, some 2, none, some 1⟩] && u.state = .member) = true ∧
    after (.unassignedKindTally (tallyWith 0 1)) (leaves (leftBy2 .settling)) (fun u => u.state = .member) = true ∧
    after (.unassignedKindTally (tallyWith 0 1)) { s with faults := [note, note] } (fun u =>
      u.state = .halted) = true ∧
    after (.leaveTally (tallyWith 1 1)) (during (leftBy2 .member) ⟨2, 0, 0, .leave⟩ none 1) (fun u =>
      u.members.present = 0xA && u.entry 3 = .done .homeAbsent []) = true := by
  refine ⟨canonical_of (by decide +kernel), law_of (by decide +kernel) ?_, by unfold State.faultsBounded; decide +kernel,
    by unfold State.departsAt; decide +kernel, ?_, ⟨?_, by decide +kernel, walkApart_of (by decide +kernel)⟩, ?_, ?_⟩
  · intro pub d x h
    cases h
    decide
  · unfold State.unnamed; decide +kernel
  · unfold leaves; decide +kernel
  · unfold State.namedOnlyBy; decide +kernel
  · decide +kernel

/-- A FETCH waits for the DATA of a departed holder; a LEAVING station is left with a HELD slot. -/
theorem witness_Departures_retry_and_leave :
    let r : Record := { newRecord .fetch 1 (some 4) [] .none with phase := .waitingData, supplier := some 3 }
    let s : State := leaves { (copyOf .filling false false).setPosition 0 (.holding r) with
      members := { pool.members with present := 0xE } }
    let l : State := { leaving with copy := (copyOf .held true false).copy,
                                    bus := { leaving.bus with offers := [.leave] } }
    s.departsAt ⟨3, 0, 0, .unassigned 0⟩ (s.reading .unassigned 1 (tallyWith 1 0)) 8 ∧
    after (.unassignedKindTally (tallyWith 1 0)) s (fun u => u.recordAt 0 = some (Record.again r) &&
      u.bus.offers = [.record 0]) = true ∧
    l.outstanding .leave = some 0 ∧
    after (.unassignedKindTally (tallyWith 0 0)) (leaves l) (fun u => u.state = .member && u.bus.offers = [] &&
      u.entry 0 = .done .retainedLines [1]) = true := by
  refine ⟨by unfold State.departsAt; decide +kernel, ?_⟩
  decide +kernel

/-- A full set 1: HELD lines of station 2, that in slot 6 of highest rank. -/
def fullSet : State :=
  let v (l : LineAddr) (k : Fin 4) : Slot :=
    { line := l, state := .held, dirty := true, lost := false, rank := k, words := lineZero }
  (((pool.setSlot 4 (v 513 0)).setSlot 5 (v 513 1)).setSlot 6 (v 513 3)).setSlot 7 (v 513 2)

/-- For MissFetchesTheLine: the HELD victim, the CLAIM, and the records that name no slot. -/
theorem witness_MissFetchesTheLine_more :
    fullSet.canonical ∧ fullSet.serves 0 (.read 64 1) (resOf pool 64) ∧
    fullSet.slotOf (resOf pool 64).line = none ∧ fullSet.homePresent 513 = true ∧
    fullSet.idlePosition = some 0 ∧ fullSet.freePositionBut 0 = some 1 ∧
    (copyOf .read false false).serves 0 (.write 64 1 0xF [9]) (resOf pool 64) ∧
    pool.serves 0 (.read 0x20004 2) (resOf pool 0x20004) ∧
    pool.serves 0 (.write 0x10004 2 0xFF [9, 8]) (resOf pool 0x10004) ∧
    pool.serves 0 (.operation (.pop 0x20000 1)) (resOf pool 0x20000) ∧
    (resOf pool 0x20004).entry.mode = .uncached ∧ (resOf pool 0x10004).entry.mode = .coherentWT ∧
    (resOf pool 0x20004).here = false ∧
    after (.read 64 1) fullSet (fun u => u.entry 0 = .opened (.read 64 1) (.successor 6) &&
      u.recordAt 0 = some (newRecord .ret 513 (some 6) [] .none) &&
      u.positions[1] = .reserved (.successor 0 6) && (u.slotAt 6).state = .evicting) = true ∧
    after (.write 64 1 0xF [9]) (copyOf .read false false) (fun u => (u.slotAt 4).state = .upgrading &&
      u.recordAt 0 = some (newRecord .claim 1 (some 4) [0] .none)) = true ∧
    after (.read 0x20004 2) pool (fun u =>
      u.recordAt 0 = some (newRecord .readDirect 2048 none [0] (.words 1 2))) = true ∧
    after (.write 0x10004 2 0xFF [9, 8]) pool (fun u => (u.recordAt 0).any fun r =>
      r.kind = .writeThrough && match r.payload with
        | .writeThrough mask en ws => mask = 6 && en = 0xFF0 && lineWord ws 1 = 9 && lineWord ws 2 = 8
        | _ => false) = true ∧
    after (.condStore 64 68 1 .zero) (copyOf .read false false) (fun u =>
      u.recordAt 0 = some (newRecord .operate 1 none [0] (.operate (.condStore 0 1 1 .zero))) &&
      (u.slotAt 4).state = .read) = true := by
  refine ⟨canonical_of (by decide +kernel), serves_of 64 (by decide +kernel), by decide +kernel, by decide +kernel,
    by decide +kernel, by decide +kernel, serves_of 64 (by decide +kernel), serves_of 0x20004 (by decide +kernel),
    serves_of 0x10004 (by decide +kernel), serves_of 0x20000 (by decide +kernel), ?_⟩
  decide +kernel

/-- For FlushAllWithNothingToFlush: a walk with two slots and one position free; the tally of its last record. -/
theorem witness_FlushAll_walk :
    let v : Slot := { line := 3, state := .held, dirty := false, lost := false, rank := 0, words := lineZero }
    let s : State := { (copyOf .held true false).setSlot 12 v with
      positions := #v[.fenced 1 2, .fenced 1 2, .free, .fenced 1 2] }
    let w : State := { withRequest returning 5 .flushAll .walk with
      copy := { returning.copy with walk := some ⟨5, [], [0], true⟩ } }
    s.canonical ∧ s.walkSlots = [4, 12] ∧ s.freePosition = some 2 ∧ s.freePositionBut 2 = none ∧
    w.canonical ∧ w.entry 5 = .opened .flushAll .walk ∧ w.successorOf 4 = none ∧
    after .flushAll s (fun u => u.copy.walk = some ⟨0, [12], [2], false⟩ && (u.slotAt 4).state = .evicting &&
      u.recordAt 2 = some (newRecord .ret 1 (some 4) [] .none)) = true ∧
    after (.returnTally (tallyWith 1 0)) w (fun u => u.copy.walk.isNone && u.entry 5 = .done .contended [0]) =
      true := by
  refine ⟨canonical_of (by decide +kernel), by decide +kernel, by decide +kernel, by decide +kernel,
    canonical_of (by decide +kernel), ?_⟩
  decide +kernel

/-- For HomeReadsAndOperationsAreIssued: requests that need a recall. -/
theorem witness_HomeReadsAndOperationsAreIssued_recall :
    (lent 0 (some 2) none false false).canonical ∧
    (lent 0 (some 2) none false false).serves 0 (.read 4 1) (resOf pool 4) ∧
    (lent 4 none none true false).serves 0 (.repairLine 0) (resOf pool 0) ∧
    (lent 0 (some 2) none false false).loanKey 0 = some 0 ∧
    (lent 0 (some 2) none false false).freeHome = some 0 ∧
    (lent 0 (some 2) none false false).idlePosition = some 0 ∧
    after (.read 4 1) (lent 0 (some 2) none false false) (fun u => u.entry 0 = .opened (.read 4 1) .homeQueue &&
      u.homeQueue.entries[0] = .request 0 0 .waitingRecall &&
      u.recordAt 0 = some (newRecord .recallRead 0 none [] .none) &&
      ((u.loanWay 0).entry.map (·.busy)) = some true) = true ∧
    after (.write 4 1 0xF [1]) (lent 4 none none false false) (fun u =>
      u.recordAt 0 = some (newRecord .recallAll 0 none [] .none) && u.bank.mem = []) = true := by
  refine ⟨canonical_of (by decide +kernel), serves_of 4 (by decide +kernel), serves_of 0 (by decide +kernel), ?_⟩
  decide +kernel

/-! ### What waits, and what is taken up inside a step -/

theorem mem_allTags : ∀ t : Tag, t ∈ allTags := by decide

theorem mem_homeNumbers : ∀ e : Fin 8, e ∈ homeNumbers := by decide

theorem quiet_of {s : State} {l : LineAddr}
    (h : (allTags.all (fun t => match s.entry t with
        | .opened r .line => requestLine r ≠ some l
        | _ => true) &&
      homeNumbers.all fun e => match s.homeQueue.entries[e] with
        | .request l' _ _ => l' ≠ l
        | _ => true) = true) : s.quiet l := by
  simp only [Bool.and_eq_true, List.all_eq_true] at h
  refine ⟨fun t r he => ?_, fun e l' t c he => ?_⟩
  · have := h.1 t (mem_allTags t)
    simpa [he] using this
  · have := h.2 e (mem_homeNumbers e)
    simpa [he] using this

theorem nothingWaits_of {s : State} {r : Record} (hq : s.quiet r.line)
    (hs : (match r.slot with | some k => (s.successorOf k).isNone | none => true) = true) : s.nothingWaits r := by
  refine ⟨hq, fun k hk => ?_⟩
  rw [hk] at hs
  simpa using hs

/-- The states of the witnesses above in which nothing waits on the record that closes. -/
theorem witness_quiet :
    claiming.quiet 1 ∧ [(3 : Tag), 5].Nodup ∧ succeeding.quiet 1 ∧ succeeding.quiet 513 ∧ filling.quiet 1 ∧
    (recalling none).quiet 0 ∧ overdue.quiet 1 ∧ (recalled (homeData 1 2 false)).quiet 0 ∧
    returning.nothingWaits (newRecord .ret 1 (some 4) [] .none) ∧
    (retrying 31 6).nothingWaits { newRecord .fetch 1 (some 4) [3] .none with retry := 31 } ∧
    (leftBy2 .member).nothingWaits (newRecord .fetch 3 (some 12) [3] .none) ∧
    (leftBy2 .settling).quiet 0 ∧ settling.noneWaits ∧ joinTenure.noneWaits ∧ (leftBy2 .settling).noneWaits ∧
    exhaustedHome.quiet 640 := by
  refine ⟨quiet_of (by decide +kernel), by decide, quiet_of (by decide +kernel), quiet_of (by decide +kernel),
    quiet_of (by decide +kernel), quiet_of (by decide +kernel), quiet_of (by decide +kernel),
    quiet_of (by decide +kernel), nothingWaits_of (quiet_of (by decide +kernel)) (by decide +kernel),
    nothingWaits_of (quiet_of (by decide +kernel)) (by decide +kernel),
    nothingWaits_of (quiet_of (by decide +kernel)) (by decide +kernel), quiet_of (by decide +kernel), ?_, ?_, ?_,
    quiet_of (by decide +kernel)⟩ <;> (unfold State.noneWaits; decide +kernel)

/-- For OwnWriteOrEvictionEnds: a WRITE_THROUGH with keeps-copy set and this station's copy READ. -/
theorem witness_OwnWriteOrEvictionEnds_keeps :
    let v : Slot := { line := 1024, state := .read, dirty := false, lost := false, rank := 0, words := words 0 }
    let r : Record := newRecord .writeThrough 1024 none [3] (writePayload (.write 0x10000 1 0xF [9]))
    let s : State := ownTenure (withRequest (pool.setSlot 0 v) 3 (.write 0x10000 1 0xF [9]) (.onRecord 0)) r
      (.writeThrough 1 true 0xF (lineOf fun _ => 9))
    s.canonical ∧ s.slotOf 1024 = some 0 ∧
    after (.writeThroughTally (tallyWith 1 0)) s (fun u => u.entry 3 = .done .ok [] &&
      u.slotAt 0 = { v with words := mergeLine v.words (lineOf fun i => if i = 0 then 9 else 0) 0xF } &&
      u.positions[0] = .free) = true := by
  refine ⟨canonical_of (by decide +kernel), ?_⟩
  decide +kernel

/-- Request r with tag 3 heads line 0 in home queue entry 2 and waits for its recall. -/
def heading (s : State) (r : Request) : State :=
  (withRequest s 3 r .homeQueue).takeHome 2 (.request 0 3 .waitingRecall)

theorem headWaits_of {s : State} {l : LineAddr} {e : Fin 8} {t : Tag} {r : Request} {res : Resolved} (a : Word)
    (h : s.homeHead l = some e ∧ s.homeOf t = some e ∧ s.homeQueue.entries[e] = .request l t .waitingRecall ∧
      s.request t = some r ∧ t ∈ s.port.taken ∧ requestAddress r = some a ∧ s.resolve a.toNat = some res ∧
      res.line = l)
    (hl : (allTags.all fun x => s.progress x ≠ some .line || (s.homeOf x).isNone) = true) :
    s.headWaits l e t r res := by
  obtain ⟨h1, h2, h3, h4, h5, h6, h7, h8⟩ := h
  refine ⟨h1, h2, h3, ?_, h5, ⟨a, h6, h7, h8⟩, fun x rq hx => ?_⟩
  · unfold State.request at h4
    split at h4
    · rename_i r' p hp
      cases h4
      exact ⟨p, hp⟩
    · cases h4
  · have hp : s.progress x = some .line := by
      unfold State.progress
      rw [hx]
    have := List.all_eq_true.mp hl x (mem_allTags x)
    simpa [hp] using this

/-- R137, R143: the end of a recall lets the READ, or the REPAIR_LINE, at the head of its line act in the same
step; at the thirty-second retry the one that waits completes CONTENDED. -/
theorem witness_OwnRecallTally_heads :
    (heading (recalling none) (.read 4 1)).headWaits 0 2 3 (.read 4 1) (resOf pool 4) ∧
    (heading (recalling none) (.repairLine 0)).headWaits 0 2 3 (.repairLine 0) (resOf pool 0) ∧
    (heading (recalling none) (.read 4 1)).onlyRecord 0 0 ∧
    ((recalling none).reading .recallAll 1 (tallyWith 4 0)).hasRetry = true ∧
    ((recalling none).reading .recallAll 1 (tallyWith 4 0)).holders.length < 2 ∧
    (recalling none).homeSilent 0 ((recalling none).reading .recallAll 1 (tallyWith 4 0)) = false ∧
    (heading (recalling none) (.read 4 1)).recallWaiter 0 = some 3 ∧
    after (.recallAllTally (tallyWith 2 0)) (heading (recalling none) (.read 4 1)) (fun u =>
      u.homeQueue.entries[2] = .request 0 3 .acting && u.bank.inFlight = [.localRead (some 3) false [0]]) = true ∧
    after (.recallAllTally (tallyWith 2 0)) (heading (ownTenure (lent 4 none none true true)
      (newRecord .recallAll 0 none [] .none) .recallAll) (.repairLine 0)) (fun u =>
        u.entry 3 = .done .ok [] && u.loans = [] && u.homeQueue.entries[2] = .free) = true ∧
    after (.recallAllTally (tallyWith 4 0)) (heading (ownTenure (lent 4 none none true true)
      { newRecord .recallAll 0 none [] .none with retry := 31 } .recallAll) (.repairLine 0)) (fun u =>
        u.entry 3 = .done .contended [] && u.positions[0] = .free &&
        (u.loanOf 0).map (fun e => (e.lost, e.busy, e.holders)) = some (true, false, 4)) = true := by
  refine ⟨headWaits_of 4 (by decide +kernel) (by decide +kernel), headWaits_of 0 (by decide +kernel)
    (by decide +kernel), by unfold State.onlyRecord; decide +kernel, ?_⟩
  decide +kernel

/-- The example of 7.10 at its step 4, and R180: the recall's DATA is stored, and the WRITE at the head of the line
acts over it in the same step; words past the line are not stored, also-home set or not. -/
theorem witness_TenuresWriteTheHomeMemory_head :
    (heading (recalled (homeData 1 0 false)) (.write 0 1 0xF [9])).headWaits 0 2 3 (.write 0 1 0xF [9])
      (resOf pool 0) ∧
    (heading (recalled (homeData 1 0 false)) (.write 0 1 0xF [9])).onlyRecord 1 0 ∧
    unassignedData { homeData 1 0 true with first := 3 } = true ∧ unassignedData (homeData 1 25 true) = true ∧
    unassignedData (homeData 1 20 false) = false ∧
    after (.dataTally (tallyWith 1 0)) (heading (recalled (homeData 1 0 false)) (.write 0 1 0xF [9])) (fun u =>
      u.positions[1] = .free && u.homeQueue.entries[2] = .request 0 3 .acting &&
      u.bank.inFlight = [.localStore (some 3)] && readWord u.bank.mem 0 = 9 &&
      readWord u.bank.mem 4 = 0x301) = true ∧
    after (.dataTally (tallyWith 1 0)) (recalled { homeData 1 0 true with first := 3 }) (fun u =>
      u.bank.mem = [] && u.positions[1] = .free && u.lineLost 0) = true ∧
    after (.dataTally (tallyWith 1 0)) (during pool ⟨2, 0, 0, .data (homeData 3 25 true)⟩ none 1) (fun u =>
      u.bank.mem = []) = true := by
  refine ⟨headWaits_of 0 (by decide +kernel) (by decide +kernel), by unfold State.onlyRecord; decide +kernel, ?_⟩
  decide +kernel

/-- For HomeSuppliesFromMemory: a mismatch on the held_by station makes the supply LOST_DATA. -/
theorem witness_HomeSuppliesFromMemory_mismatch :
    let s : State := { supplying .fetch with loans := (lent 0 (some 3) none false false).loans }
    s.canonical ∧ (s.loanOf 0).map (·.heldBy) = some (some 3) ∧ s.faults.length < 2 ∧
    loanMismatch ⟨2, 3, 0, .fetch⟩ (s.reading .fetch 1 (tallyWith 1 1)) 3 ∧
    after (.fetchTally (tallyWith 1 1)) s (fun u => match u.supply.entries[0] with
      | .awaiting d k => k = .fetch && d.data.status = 2 && d.data.first = 0 && d.data.count = 16
      | _ => false) = true := by
  refine ⟨canonical_of (by decide +kernel), ?_⟩
  unfold loanMismatch
  decide +kernel

/-- Station 1 in state s with a READ of line 1 that waits for MEMBER under tag 4. -/
def awaitingMember (s : State) : State := withRequest s 4 (.read 64 1) .waitsMember

/-- SETTLING, awaiting station 2 alone, with that READ. -/
def lastAwaited : State :=
  { awaitingMember settling with members := { settling.members with awaited := 4 } }

/-- Station 5 replies NONE, station 2 is silent. -/
def fiveReplies : Tally := #v[0, 0, 0, 0, 0, 1, 0, 0, 0, 0, 0, 0, 0, 0, 0, 0]

/-- R40, R48: the READY, the expiry, the departure and the own JOIN that make the station MEMBER take up the READ
that waited. -/
theorem witness_awaitsMember :
    let taken (u : State) : Bool := u.state = .member && u.entry 4 = .opened (.read 64 1) (.onRecord 0) &&
      u.recordAt 0 = some (newRecord .fetch 1 (some 4) [4] .none) && u.bus.offers = [.record 0]
    (awaitingMember settling).awaitsMember 4 ∧ lastAwaited.awaitsMember 4 ∧
    (awaitingMember joinTenure).awaitsMember 4 ∧ (leaves lastAwaited).membershipLaw ∧
    (leaves lastAwaited).departsAt ⟨3, 0, 0, .unassigned 0⟩
      ((leaves lastAwaited).reading .unassigned 1 fiveReplies) 4 ∧
    lastAwaited.members.awaited &&& ~~~4 = 0 ∧
    after (.readyTally bothReply) (during lastAwaited ⟨2, 0, 0, .ready 1⟩ none 1) taken = true ∧
    after .settleTimerExpiry (awaitingMember settling) taken = true ∧
    after (.unassignedKindTally fiveReplies) (leaves lastAwaited) (fun u => u.state = .member &&
      u.members.present = 0x22 && u.entry 4 = .opened (.read 64 1) (.onRecord 0)) = true ∧
    after (.joinTally (tallyWith 0 0)) (awaitingMember joinTenure) taken = true := by
  intro taken
  refine ⟨⟨.read 64 1, 64, resOf pool 64, by decide +kernel⟩, ⟨.read 64 1, 64, resOf pool 64, by decide +kernel⟩,
    ⟨.read 64 1, 64, resOf pool 64, by decide +kernel⟩, law_of (by decide +kernel) ?_,
    by unfold State.departsAt; decide +kernel, ?_⟩
  · intro pub d x h
    cases h
    decide
  · decide +kernel

/-- For DeadlineExpiryFencesThePosition: a recall; and a third notice, which comes after the completions. -/
theorem witness_DeadlineExpiryFencesThePosition_more :
    let s : State := (lent 8 none none false true).setPosition 1 (.holding waitingRecall)
    s.canonical ∧ s.quiet 0 ∧ s.homedHere 0 = some 0 ∧ s.loanKey 0 = some 0 ∧ s.faultsBounded ∧
    ({ overdue with faults := [note, note] } : State).faults.length = 2 ∧
    after (.dataDeadlineExpiry 1) s (fun u => u.positions[1] = .fenced 0 2 &&
      (u.loanOf 0).map (fun e => (e.lost, e.busy, e.holders)) = some (true, false, 8)) = true ∧
    after (.dataDeadlineExpiry 0) { overdue with faults := [note, note] } (fun u => u.state = .halted &&
      u.entry 3 = .done .noAnswer [] && u.positions[0] = .free) = true := by
  refine ⟨canonical_of (by decide +kernel), quiet_of (by decide +kernel), by decide +kernel, by decide +kernel,
    by unfold State.faultsBounded; decide +kernel, ?_⟩
  decide +kernel

/-- For SupplyReadEndReadiesTheEntry: a failed FETCH and a failed FETCH_OWN of station 2. -/
theorem witness_SupplyReadEndReadiesTheEntry_loan :
    let d : Supply := memoryData 1 ⟨2, 3, 0, .fetch⟩ false 0 16
    let s (k : Kind) (l : State) : State := { l with
      supply := { l.supply with entries := l.supply.entries.set 2 (.awaiting d k) },
      bank := { l.bank with inFlight := [.supplyRead (some 2) (words 0x40)] } }
    (s .fetch (lent 0xC none none false false)).canonical ∧
    (s .fetch (lent 0xC none none false false)).homedHere 0 = some 0 ∧
    after (.supplyReadEnd true) (s .fetch (lent 0xC none none false false)) (fun u =>
      (u.loanOf 0).map (·.holders) = some 8) = true ∧
    after (.supplyReadEnd true) (s .fetchOwn (lent 0 (some 2) none false false)) (fun u => u.loans = [] &&
      u.faults = [⟨.memoryError, some 2, some 0, none⟩]) = true := by
  refine ⟨canonical_of (by decide +kernel), ?_⟩
  decide +kernel

/-- The example of 9.8 before its step 8: a WRITE is held back behind the FETCH of its line, no position free. -/
def beforeStep8 : State :=
  let s := withRequest filling 5 (.write 64 1 0xF [9]) .line
  { s with positions := #v[s.positions[0], .fenced 0 3, .fenced 2 3, .fenced 4 3] }

/-- 9.8 at its step 8: the DATA completes the READ, and the WRITE makes the slot UPGRADING with a CLAIM record. -/
theorem witness_HeldBackReadIsTakenUp_step8 :
    beforeStep8.canonical ∧
    beforeStep8.atTally ⟨2, 0, 1, .data fill⟩ none (tallyWith 1 0) (beforeStep8.reading .data 1 (tallyWith 1 0)) ∧
    beforeStep8.onlyRecord 0 1 ∧ wholeLineData fill ∧
    beforeStep8.matchRecord ⟨2, 0, 1, .data fill⟩ fill = some waitingFetch ∧
    beforeStep8.entry 3 = .opened (.read 64 2) (.onRecord 0) ∧ beforeStep8.slotOf 1 = some 4 ∧
    (beforeStep8.slotAt 4).state = .filling ∧ beforeStep8.entry 5 = .opened (.write 64 1 0xF [9]) .line ∧
    5 ∈ beforeStep8.port.taken ∧ beforeStep8.resolve 64 = some (resOf pool 64) ∧
    (∀ x rq, beforeStep8.entry x = .opened rq .line → x = 5) ∧ beforeStep8.homeQueue = HomeQueue.reset ∧
    beforeStep8.heldBack 5 1 = false ∧ beforeStep8.returnWaits = false ∧
    (∀ x, x ∈ beforeStep8.earlier 5 → beforeStep8.wantsPosition x = false) ∧
    beforeStep8.reservedFor (.head 5) = none ∧ beforeStep8.freePosition = none ∧ beforeStep8.copy.walk = none ∧
    after (.dataTally (tallyWith 1 0)) beforeStep8 (fun u => u.entry 3 = .done .lostData [0x200, 0x201] &&
      u.entry 5 = .opened (.write 64 1 0xF [9]) (.onRecord 0) && (u.slotAt 4).state = .upgrading &&
      u.recordAt 0 = some (newRecord .claim 1 (some 4) [5] .none) && u.bus.offers = [.record 0]) = true := by
  refine ⟨canonical_of (by decide +kernel), atTally_of 1 (by decide +kernel),
    by unfold State.onlyRecord; decide +kernel, by unfold wholeLineData; decide +kernel, by decide +kernel,
    by decide +kernel, by decide +kernel, by decide +kernel, by decide +kernel, by decide +kernel, by decide +kernel,
    ?_, ?_⟩
  · intro x rq h
    have hp : beforeStep8.progress x = some .line := by
      unfold State.progress
      rw [h]
    have only : ∀ x : Tag, beforeStep8.progress x = some .line → x = 5 := by decide +kernel
    exact only x hp
  · decide +kernel

/-- The pool with the COHERENT_WT window homed at station 5, which is absent. -/
def fiveHomes : State :=
  { pool with decoder := { pool.decoder with table := pool.decoder.table.set 1 (win 1 .coherentWT 0 5 0 0) } }

/-- For MissFetchesTheLine: a READ victim, and a HELD way of an absent home of a higher rank beside it. -/
theorem witness_MissFetchesTheLine_victims :
    let v (l : LineAddr) (st : SlotState) (k : Fin 4) : Slot :=
      { line := l, state := st, dirty := false, lost := false, rank := k, words := lineZero }
    let s : State := (((fiveHomes.setSlot 4 (v 513 .read 2)).setSlot 5 (v 1025 .held 3)).setSlot 6
      (v 513 .read 1)).setSlot 7 (v 513 .held 0)
    s.canonical ∧ s.serves 0 (.read 64 1) (resOf pool 64) ∧ s.outranks 1 4 ∧ fullSet.outranks 1 6 ∧
    s.homePresent 1025 = false ∧ s.homePresent 513 = true ∧
    after (.read 64 1) s (fun u => (u.slotAt 4).state = .filling && (u.slotAt 4).line = 1 && (u.slotAt 4).rank = 0 &&
        u.recordAt 0 = some (newRecord .fetch 1 (some 4) [0] .none)) = true := by
  refine ⟨canonical_of (by decide +kernel), serves_of 64 (by decide +kernel),
    by unfold State.outranks; decide +kernel, by unfold State.outranks; decide +kernel, ?_⟩
  decide +kernel

/-- R40, R120: a PRIVATE line is served in JOINING too. -/
theorem witness_servesPrivate :
    joining.servesPrivate 1 (.read 0x30044 1) 0x30044 (resOf joining 0x30044) ∧
    settling.servesPrivate 0 (.write 0x30044 1 0xF [9]) 0x30044 (resOf settling 0x30044) ∧
    (resOf joining 0x30044).index = 1025 ∧ (resOf joining 0x30044).home = 1 ∧ joining.bank.run = none ∧
    findWindow table 0x30044 = some 3 ∧ table[3].mode = .priv ∧
    after (.read 0x30044 1) joining (fun u => u.entry 1 = .opened (.read 0x30044 1) .bank &&
      u.bank.inFlight = [.localRead (some 1) false [0]]) = true ∧
    after (.write 0x30044 1 0xF [9]) settling (fun u => u.bank.mem = [(65604, 9)] &&
      u.entry 0 = .opened (.write 0x30044 1 0xF [9]) .bank) = true ∧
    after (.pop 0x30000 1) joining (fun u => u.bank.run.isSome) = true ∧
    after (.repairLine 0x30044) leaving (fun u => u.entry 1 = .done .ok []) = true := by
  refine ⟨⟨by decide +kernel, walkApart_of rfl, by decide +kernel, by decide +kernel, ?_, by decide +kernel⟩,
    ⟨by decide +kernel, walkApart_of rfl, by decide +kernel, by decide +kernel, ?_, by decide +kernel⟩, ?_⟩
  · rfl
  · rfl
  · decide +kernel

/-- For ContentionRoundOutcome: what a supply entry, a RETURN and a WRITE_THROUGH publish, and a JOIN. -/
theorem witness_ContentionRoundOutcome_published :
    let body (s : State) : Option Body := match exec (.contentionRound [] false) s with
      | .next u => match u.bus.phase with
        | .tenure pub _ _ _ => some pub.body
        | .free => none
      | _ => none
    let v : Slot := { line := 1024, state := .read, dirty := false, lost := false, rank := 0, words := words 0 }
    let wt := newRecord .writeThrough 1024 none [3] (.writeThrough 1 0xF (words 0))
    body (withRecord (copyOf .evicting true false) 0 (newRecord .ret 1 (some 4) [] .none)) =
      some (.ret (words 0x100)) ∧
    body (withRecord (pool.setSlot 0 v) 0 wt) = some (.writeThrough 1 true 0xF (words 0)) ∧
    body (withRecord pool 0 wt) = some (.writeThrough 1 false 0xF (words 0)) ∧
    body { joining with bus := { joining.bus with offers := [.join] } } = some (.join 0 table) ∧
    body { withRecord pool 0 wt with supply :=
      { entries := #v[.free, .ready ⟨1, 2, fill⟩, .ready ⟨3, 2, fill⟩, .free], order := [2, 1] } } =
        some (.data fill) := by decide +kernel

/-- For SnoopReplyFollowsTheSlot: FILLING with its record before and after its tally, and RETURN and RELEASE. -/
theorem witness_SnoopReplyFollowsTheSlot_rows :
    let before : State := withRecord (copyOf .filling false false) 0 (newRecord .fetch 1 (some 4) [3] .none)
    let waiting : State := (copyOf .owning false false).setPosition 0 (.holding waitingFetch)
    before.slotOf 1 = some 4 ∧ waiting.recordOf 1 = some (0, waitingFetch) ∧
    replyTo before .recallAll = some 1 ∧ replyTo waiting .recallAll = some 4 ∧ replyTo waiting .release = some 4 ∧
    replyTo (copyOf .held true false) (.ret lineZero) = some 1 ∧ replyTo (copyOf .read false false) .release = some 1 ∧
    replyTo pool (.ret lineZero) = some 1 := by decide +kernel

/-- R51: the drain recalls an entry that is neither lost nor busy, also where the home queue has its line. -/
theorem test_drain_recalls_queued_line :
    let s : State := { (lent 4 none none false false).setHome 1 (.request 0 3 .acting) with state := .leaving }
    s.drainLoan.map (·.index) = some 0 ∧
    after .positionGrant (withRequest s 3 (.read 4 1) .homeQueue) (fun u =>
      u.recordAt 0 = some (newRecord .recallAll 0 none [] .none) && u.lineLost 0 = false &&
      (u.loanOf 0).map (·.busy) = some true) = true := by decide +kernel

/-- R164: another station's FETCH_OWN takes the walk's last listed slot at a tally that also reads a departure: the
READ of the departed home's line, taken later than the FLUSH_ALL, completes after it. -/
theorem test_departure_and_walk_in_taken_order :
    let s := withRequest (copyOf .held false false) 3 .flushAll .walk
    let s := withRequest s 4 (.read 0x10000 1) (.onRecord 1)
    let s : State := { s with
      decoder := { s.decoder with table := s.decoder.table.set 1 (win 1 .coherentWT 0 5 0 0) },
      members := { s.members with present := 0x2E } , copy := { s.copy with walk := some ⟨3, [4], [], false⟩ } }
    let s := s.setPosition 1 (.holding (newRecord .fetch 1024 (some 0) [4] .none))
    after (.fetchOwnTally (tallyWith 1 1)) (during (s.setSupply 0 (.reserved 3 .fetchOwn 1 2))
      ⟨3, 2, 1, .fetchOwn⟩ none 3) (fun u => u.port.completions = [3, 4] && u.entry 3 = .done .ok [0] &&
        u.entry 4 = .done .homeAbsent [] && (u.slotAt 4).state = .void) = true := by decide +kernel

/-! ### The tenure law, and what is published without a record -/

theorem tenureLaw_of {s : State}
    (hr : ∀ p : RecordTag, ((s.recordAt p).all fun r => lineKind r.kind) = true)
    (hs : ∀ e : Fin 4, (match s.supply.entries[e] with | .reserved .. => true | _ => false) = false)
    (hh : ∀ e : Fin 8, (match s.homeQueue.entries[e] with | .reserved .. => true | _ => false) = false)
    (hb : (match s.bus.phase with
      | .tenure _ own _ (some p) => own.isNone && (s.recordAt p).any fun r =>
          r.kind = .recallAll && r.payload = .exhausted && r.slot = none && r.phase = .waitingBus
      | _ => true) = true) : s.tenureLaw := by
  refine ⟨fun p r h => by simpa [h] using hr p, fun e x k l g h => by simpa [h] using hs e,
    fun e x l g h => by simpa [h] using hh e, fun pub own drove p _ h => ?_⟩
  rw [h] at hb
  simp only [Bool.and_eq_true, Option.isNone_iff_eq_none, Option.any_eq_true] at hb
  obtain ⟨ho, r, hq, hf⟩ := hb
  exact ⟨ho, r, hq, by simpa [and_assoc] using hf⟩

/-- The ninth line of a set, its FETCH published: the recall of line 640 is noted with the tenure. -/
def recallNoted : State :=
  match exec (.publication ⟨2, 3, 1024, .fetch⟩) exhaustedHome with
  | .next u => u
  | _ => exhaustedHome

/-- For HomeReplyFollowsItsCauses (its third and fourth parts), OwnRecallTally and StepKeepsTheTenureLaw: states that keep the
law, with a reservation and a recall noted among them, and steps from them. -/
theorem witness_StepKeepsTheTenureLaw :
    (recalling none).tenureLaw ∧ (recalling (some 3)).tenureLaw ∧
    (heading (recalling none) (.read 4 1)).tenureLaw ∧ (heading (recalling none) (.repairLine 0)).tenureLaw ∧
    recallNoted.tenureLaw ∧ (supplying .fetch).tenureLaw ∧
    recallNoted.bus.phase = .tenure ⟨2, 3, 1024, .fetch⟩ none 4 (some 0) ∧
    after (.fetchTally (tallyWith 1 0)) recallNoted (fun u => u.bus.offers = [.record 0]) = true ∧
    ((supplying .fetch).reservedSupply = some 0 ∧
      after (.fetchTally (tallyWith 1 0)) (supplying .fetch) (fun u => u.reservedSupply.isNone) = true) := by
  refine ⟨tenureLaw_of (by decide +kernel) (by decide +kernel) (by decide +kernel) (by decide +kernel),
    tenureLaw_of (by decide +kernel) (by decide +kernel) (by decide +kernel) (by decide +kernel),
    tenureLaw_of (by decide +kernel) (by decide +kernel) (by decide +kernel) (by decide +kernel),
    tenureLaw_of (by decide +kernel) (by decide +kernel) (by decide +kernel) (by decide +kernel),
    tenureLaw_of (by decide +kernel) (by decide +kernel) (by decide +kernel) (by decide +kernel), ?_, ?_⟩
  · refine ⟨by decide +kernel, fun e x k l g h => ⟨by decide +kernel, ⟨_, _, _, rfl, by decide +kernel⟩, ?_⟩,
      fun e x l g h => ?_, fun pub own drove p _ h => by cases h⟩
    · have only : ∀ e : Fin 4, (match (supplying .fetch).supply.entries[e] with
          | .reserved .. => true | _ => false) = true → e = 0 := by decide +kernel
      intro e' x' k' l' g' h'
      rw [only e (by simp [h]), only e' (by simp [h'])]
    · have none : ∀ e : Fin 8, (match (supplying .fetch).homeQueue.entries[e] with
          | .reserved .. => true | _ => false) = false := by decide +kernel
      simpa [h] using none e
  · decide +kernel

/-- For ContentionRoundOutcome: a READY and a LEAVE offer, and a record of each kind with a tag, published. -/
theorem witness_ContentionRoundOutcome_offers :
    let offering (s : State) (o : Offer) : State := { s with bus := { s.bus with offers := [o] } }
    let pub (s : State) : Option Publication := match exec (.contentionRound [⟨3, false, none⟩] false) s with
      | .next u => match u.bus.phase with
        | .tenure pub (some _) 1 none => some pub
        | _ => none
      | _ => none
    (offering pool (.ready 2)).ownClass = some .request ∧
    (offering pool (.ready 2)).winsRound .request [⟨3, false, none⟩] = true ∧
    pub (offering pool (.ready 2)) = some ⟨1, 0, 0, .ready 2⟩ ∧
    (offering leaving .leave).winsRound .request [⟨3, false, none⟩] = true ∧
    pub (offering leaving .leave) = some ⟨1, 0, 0, .leave⟩ ∧
    pub (withRecord pool 2 (newRecord .claim 1 (some 4) [3] .none)) = some ⟨1, 2, 1, .claim⟩ ∧
    pub (withRecord pool 2 (newRecord .ret 1 (some 4) [] .none)) = some ⟨1, 0, 1, .ret lineZero⟩ ∧
    pub (withRecord pool 2 (newRecord .readDirect 2048 none [3] (.words 1 2))) =
      some ⟨1, 2, 2048, .readDirect 1 2⟩ ∧
    pub (withRecord pool 3 (newRecord .recallRead 0 none [] .none)) = some ⟨1, 3, 0, .recallRead⟩ := by
  decide +kernel

/-! ### The lost flag, a record's identity, and the order in which requests are taken up -/

/-- R66: a lost UPGRADING slot turned OWNING keeps its lost flag when its DATA brings OK; the READ that waits
completes with the DATA's status. -/
theorem test_lost_flag_outlives_the_fill :
    let s := awaiting .fetchOwn (.read 64 1) [3] (some 4) { fill with status := 0 }
    after (.dataTally (tallyWith 1 0)) (s.setSlot 4 { s.slotAt 4 with lost := true }) (fun u =>
      (u.slotAt 4).state = .held && (u.slotAt 4).lost && u.entry 3 = .done .ok [0x200]) = true ∧
    after (.dataTally (tallyWith 1 0)) s (fun u => (u.slotAt 4).state = .held && !(u.slotAt 4).lost) = true := by
  decide +kernel

/-- R91: the home departs at the tally of this station's READ_DIRECT: its READ completes HOME_ABSENT, and the
second READ of the line, held back until then, gets a record of its own in the freed position, still to be
published. -/
theorem test_departed_home_ends_its_own_record_alone :
    let s := withRequest (withRequest pool 3 (.read 0x20004 1) (.onRecord 0)) 5 (.read 0x20004 1) .line
    after (.readDirectTally (tallyWith 0 1))
      (ownTenure s (newRecord .readDirect 2048 none [3] (.words 1 1)) (.readDirect 1 1)) (fun u =>
        u.entry 3 = .done .homeAbsent [] && u.entry 5 = .opened (.read 0x20004 1) (.onRecord 0) &&
        u.recordAt 0 = some (newRecord .readDirect 2048 none [5] (.words 1 1)) &&
        u.bus.offers = [.record 0]) = true := by decide +kernel

/-- R102: a departure closes the FETCHes of lines 1 and 3. The READ of line 3 was taken first and gets the first
free position, the READ of line 1 the next. -/
theorem test_held_back_requests_go_by_the_time_taken :
    let s := withRequest (withRequest pool 3 (.read 192 1) .line) 4 (.read 64 1) .line
    let s : State := { s with positions := #v[.holding (newRecord .fetch 1 (some 4) [] .none),
      .holding (newRecord .fetch 3 (some 12) [] .none), .fenced 9 3, .fenced 9 3] }
    after (.unassignedKindTally (tallyWith 0 1)) (leaves s) (fun u =>
      u.recordAt 0 = some (newRecord .fetch 3 (some 12) [3] .none) &&
      u.recordAt 1 = some (newRecord .fetch 1 (some 4) [4] .none)) = true := by decide +kernel

/-- R80, R85: a FLUSH_ALL that waited for another's walk, now ended, stands in the grant order at its own place: the
position goes to its walk's first slot, before a READ taken later, one taken now, and the drain. -/
theorem test_waiting_walk_keeps_its_place :
    let s := withRequest (copyOf .held true false) 3 .flushAll .walkWait
    let later := withRequest s 5 (.read 0x10000 1) .position
    let turned (u : State) : Bool := u.copy.walk = some ⟨3, [], [0], false⟩ && u.entry 3 = .opened .flushAll .walk &&
      u.recordAt 0 = some (newRecord .ret 1 (some 4) [] .none) && (u.slotAt 4).state = .evicting
    after .positionGrant later (fun u => turned u && u.entry 5 = .opened (.read 0x10000 1) .position) = true ∧
    after (.read 0x10000 1) s (fun u => u.entry 0 = .opened (.read 0x10000 1) .position &&
      u.positions[0] = .free) = true ∧
    after .positionGrant (withRequest { s with state := .leaving } 6 .leave (.stream none)) turned = true ∧
    after (.waitingRequestResumed 3) s turned = true := by decide +kernel

/-- Log entry 40: the walk's last record closes at a departure of its slot's home, which leaves the slot HELD and so
retained; the walk counts after the DISCARD_LINE held back on the line has voided it. -/
theorem test_walk_counts_after_the_held_back :
    let s := withRequest (withRequest returning 5 .flushAll .walk) 6 (.discardLine 64) .line
    let w : State := { s with copy := { s.copy with walk := some ⟨5, [], [0], false⟩ } }
    after (.unassignedKindTally (tallyWith 0 1)) (leaves w) (fun u => u.copy.walk.isNone &&
      (u.slotAt 4).state = .void && u.entry 5 = .done .ok [0] && u.entry 6 = .done .ok [] &&
      u.port.completions = [5, 6]) = true := by decide +kernel

/-- R114: a HELD or EVICTING slot takes a WRITE_THROUGH's bytes into its words before it supplies and is VOID. -/
theorem test_write_through_bytes_reach_the_slot :
    let body : Body := .writeThrough 2 false 0x30 (words 7)
    let merged (u : State) : Bool := (u.slotAt 4).state = .void &&
      (u.slotAt 4).words = mergeLine (words 0x100) (words 7) 0x30 && match u.supply.entries[0] with
        | .ready d => d.data.words = (u.slotAt 4).words.toList && d.data.alsoHome && d.tag = 0
        | _ => false
    let evicted : State := withRecord (snooped body) 0 (newRecord .ret 1 (some 4) [] .none)
    after (.writeThroughTally (tallyWith 1 1)) (snooped body) merged = true ∧
    after (.writeThroughTally (tallyWith 1 1)) (evicted.setSlot 4 { evicted.slotAt 4 with state := .evicting })
      (fun u => merged u && u.positions[0] = .free) = true := by decide +kernel

/-- A LEAVING station whose drain returns line 1 (homed at 2) and recalls line 0 from station 2. -/
def draining : State :=
  let r1 : Record := { newRecord .recallAll 0 none [] .none with phase := .waitingData, supplier := some 2 }
  let s := leaving.setLoanWay 0 { rank := 0, entry := some { freshLoan 0 0 with heldBy := some 2, busy := true } }
  { s with copy := (copyOf .evicting true false).copy,
           positions := #v[.holding (newRecord .ret 1 (some 4) [] .none), .holding r1, .free, .free] }

/-- For DeparturesLeaveTheMembership: the departure closes the drain's two records, the leave is abandoned (R52), and
the entry that R57 marks lost stays. -/
theorem witness_Departures_abandoned_drain :
    let s := leaves draining
    s.canonical ∧ s.membershipLaw ∧ s.faultsBounded ∧
    s.nothingWaits (newRecord .ret 1 (some 4) [] .none) ∧ s.quiet 0 ∧
    s.departsAt ⟨3, 0, 0, .unassigned 0⟩ (s.reading .unassigned 1 (tallyWith 0 1)) 4 ∧
    after (.unassignedKindTally (tallyWith 0 1)) s (fun u => u.state = .member && u.retainedHeld = 1 &&
      u.entry 0 = .done .retainedLines [1] && (u.slotAt 4).state = .held && u.positions[0] = .free &&
      u.positions[1] = .free && (u.loanOf 0).map (fun e => (e.lost, e.busy, e.heldBy)) = some (true, false, none) &&
      u.faults = [⟨.lineLost, some 2, none, some 1⟩]) = true := by
  refine ⟨canonical_of (by decide +kernel), law_of (by decide +kernel) ?_, by unfold State.faultsBounded; decide +kernel,
    nothingWaits_of (quiet_of (by decide +kernel)) (by decide +kernel), quiet_of (by decide +kernel),
    by unfold State.departsAt; decide +kernel, ?_⟩
  · intro pub d x h
    cases h
    decide
  · decide +kernel

/-- R52, R54, R81: the leave is judged before the requests held back act. The DISCARD_LINE that voids the line the
failed RETURN gave back comes too late to save the leave; the READ taken after LEAVE gets a record, as in MEMBER.
Where the departure abandons nothing, that READ needs a record in LEAVING and completes NOT_MEMBER (R40). -/
theorem test_held_back_act_after_the_leave_is_judged :
    let s := withRequest (withRequest draining 3 (.discardLine 64) .line) 5 (.read 0x20004 1) .line
    let r := newRecord .readDirect 2048 none [] (.words 1 1)
    after (.unassignedKindTally (tallyWith 0 1)) (leaves (s.setPosition 2 (.holding r))) (fun u =>
      u.state = .member && u.entry 0 = .done .retainedLines [1] && u.entry 3 = .done .ok [] &&
      (u.slotAt 4).state = .void && (u.progress 5).any fun p => match p with | .onRecord _ => true | _ => false) = true ∧
    after (.unassignedKindTally (tallyWith 0 1)) (leaves { s with
        copy := leaving.copy, positions := #v[.free, .free, .holding r, .free] }) (fun u =>
      u.state = .leaving && u.entry 0 = .opened .leave (.stream none) && u.entry 5 = .done .notMember []) = true := by
  decide +kernel

/-- Home queue entries for other lines in all places but those of the list. -/
def crowded (s : State) (free : List (Fin 8)) : State :=
  homeNumbers.foldl (fun s e => if free.contains e then s else s.takeHome e (.operation 2 5 1 (.pop 0 1) (some 2) false 1)) s

/-- R140: a request that waits for a home queue entry is not handled anew while none is free, its need gone or not;
with one free it is, and acts. -/
theorem test_no_home_queue_entry_free :
    let s := withRequest pool 3 (.read 4 1) .homeFull
    after (.waitingRequestResumed 3) (crowded s []) (fun u => u = crowded s []) = true ∧
    after (.waitingRequestResumed 3) (crowded s [5]) (fun u => u.entry 3 = .opened (.read 4 1) .bank &&
      u.bank.inFlight = [.localRead (some 3) false [0]]) = true := by decide +kernel

/-- For HomeReplyFollowsItsCauses, its fourth part: the publisher, a member, is silent at the tally of its FETCH. -/
theorem witness_HomeReplyFollowsItsCauses_silent :
    let rd := recallNoted.reading .fetch (replyCode .retry) (tallyWith 0 0)
    recallNoted.canonical ∧ recallNoted.state.replies = true ∧ rd.silent 2 = true ∧
    recallNoted.departedAt rd = 4 ∧ recallNoted.quiet 640 ∧
    recallNoted.recordAt 0 = some (newRecord .recallAll 640 none [] .exhausted) ∧
    recallNoted.homedHere 640 = some 320 ∧
    (∀ q x, recallNoted.recordAt q = some x →
      recallNoted.homedIn 4 x.line = true ∨ namedIn 4 x.supplier = true → recallNoted.nothingWaits x) := by
  refine ⟨canonical_of (by decide +kernel), by decide +kernel, by decide +kernel, by decide +kernel,
    quiet_of (by decide +kernel), by decide +kernel, by decide +kernel, fun q x h hd => ?_⟩
  have key : ∀ q : RecordTag, (match recallNoted.recordAt q with
    | some x => !recallNoted.homedIn 4 x.line && !namedIn 4 x.supplier
    | none => true) = true := by decide +kernel
  have := key q
  rw [h] at this
  simp_all

/-- Station 1 with the run of an ACCUMULATE on line 0 under way for tag 3, and accesses held behind it: a WRITE of
line 0, a READ of it, a run and a line write. -/
def runningBefore (later : Run) : State :=
  { running with bank := { running.bank with held :=
    [.localStore 4 (wordCells 4 9), .localRead 5 0 0 2, .operate later, .store (wordCells 64 7)] } }

/-- For OperationRunEnds: the accesses held during the run, issued in order; with the record full an error drops
them. -/
theorem witness_OperationRunEnds_held :
    let later : Run := ⟨.request 6, .pop 0x40000 1, 0x1000, false, none⟩
    (runningBefore later).canonical ∧ (runningBefore later).resolveLine 0 = some (resOf pool 0) ∧
    after (.operationRunEnd false) (runningBefore later) (fun u => u.entry 3 = .done .ok [6, 0] &&
      u.bank.inFlight = [.localStore (some 4), .localRead (some 5) false [6, 9]] && u.bank.run = some later &&
      u.bank.held = [.store (wordCells 64 7)] && u.bank.mem = [(0, 6), (4, 9)]) = true ∧
    after (.operationRunEnd false) { running with bank := { running.bank with held := [.store (wordCells 64 7)] } }
      (fun u => u.bank.run.isNone && u.bank.held = [] && u.bank.mem = [(0, 6), (64, 7)]) = true ∧
    after (.operationRunEnd true) { runningBefore later with faults := [note, note] } (fun u =>
      u.state = .halted && u.bank.held = [] && u.bank.run.isNone && u.bank.mem = []) = true := by
  refine ⟨canonical_of (by decide +kernel), ?_⟩
  decide +kernel

/-- For HomeReadsAndOperationsAreIssued, HomeWriteStoresItsBytes and TenuresWriteTheHomeMemory: a READ, an operation,
a WRITE, a PRIVATE WRITE and a RETURN that become due while a run is under way. -/
theorem witness_accesses_held_during_a_run :
    running.serves 0 (.read 132 1) (resOf pool 132) ∧ running.serves 0 (.write 128 1 0x6 [9]) (resOf pool 128) ∧
    running.bank.run ≠ none ∧ recallNeed (running.loanOf 0) (.read 132 1) = none ∧
    (during running ⟨2, 0, 2, .ret (words 1)⟩ none 1).atTally ⟨2, 0, 2, .ret (words 1)⟩ none (tallyWith 1 0)
      ((during running ⟨2, 0, 2, .ret (words 1)⟩ none 1).reading .ret 1 (tallyWith 1 0)) ∧
    after (.read 132 1) running (fun u => u.bank = { running.bank with held := [.localRead 0 1 1 1] }) = true ∧
    after (.pop 0x40000 1) running (fun u => u.bank.held = [.operate ⟨.request 0, .pop 0x40000 1, 0x1000, false, none⟩] &&
      u.bank.run = running.bank.run) = true ∧
    after (.write 128 1 0x6 [9]) running (fun u => u.bank.held = [.localStore 0 [(65, 0), (66, 0)]] &&
      u.bank.mem = [] && u.bank.inFlight = [] && u.entry 0 = .opened (.write 128 1 0x6 [9]) .bank) = true ∧
    after (.write 0x30044 1 0xF [9]) running (fun u => u.bank.mem = [] &&
      u.bank.held = [.localStore 0 (wordCells (bankAddr (resOf pool 0x30044).entry 0x30044) 9)]) = true ∧
    after (.returnTally (tallyWith 1 0)) (during running ⟨2, 0, 2, .ret (words 1)⟩ none 1) (fun u =>
      u.bank.mem = [] && u.bank.held = [.store (lineCells 1 (words 1) allBytes)]) = true := by
  refine ⟨serves_of 132 (by decide +kernel), serves_of 128 (by decide +kernel), by decide +kernel, by decide +kernel,
    atTally_of 1 (by decide +kernel), ?_⟩
  decide +kernel

/-- For HomeSuppliesFromMemory: the line read of a FETCH, and the run of an OPERATE, held behind a run. -/
theorem witness_HomeSuppliesFromMemory_held :
    let behind (s : State) : State := { s with bank := running.bank }
    (behind (supplying .fetch)).canonical ∧ (behind operating).canonical ∧
    (behind (supplying .fetch)).atTally ⟨2, 3, 0, .fetch⟩ none (tallyWith 1 0)
      ((behind (supplying .fetch)).reading .fetch 1 (tallyWith 1 0)) ∧
    after (.fetchTally (tallyWith 1 0)) (behind (supplying .fetch)) (fun u =>
      u.bank = { running.bank with held := [.supplyRead 0 0] }) = true ∧
    after (.operateTally (tallyWith 1 0)) (behind operating) (fun u =>
      u.bank.held = [.operate ⟨.operation 2, .accumulate 4 2 3 .addSigned, 0, false, some .misaligned⟩] &&
      u.bank.run = running.bank.run) = true := by
  refine ⟨canonical_of (by decide +kernel), canonical_of (by decide +kernel), atTally_of 1 (by decide +kernel), ?_⟩
  decide +kernel

/-- Station 1 publishes the DATA of its supply entry 2, for station 2; entry 1 became ready after it. -/
def supplied : State :=
  let d : Data := { target := 2, source := 1, status := 0, dirty := false, alsoHome := false, first := 0, count := 1,
                    words := [7] }
  let q : Supply := { line := 0, tag := 3, data := d }
  during { pool with supply := { entries := (pool.supply.entries.set 2 (.ready q)).set 1 (.ready q),
                                 order := [2, 1] } } ⟨1, 3, 0, .data d⟩ (some (.supply 2)) 1

/-- For SupplyReadEndReadiesTheEntry, its second part: the own DATA's tally, its target present, silent and so
departed, and silent in a station that this halts. -/
theorem witness_SupplyReadEndReadiesTheEntry_freed :
    let freed (u : State) : Bool := u.supply.entries[2] = .free && u.supply.order = [1] &&
      u.supply.entries[1] = supplied.supply.entries[1] && u.bus.phase = .free
    (supplied.reading .data 1 (tallyWith 1 0)).silent 1 = false ∧
    supplied.departedAt (supplied.reading .data 1 (tallyWith 1 0)) = 0 ∧
    after (.dataTally (tallyWith 1 0)) supplied freed = true ∧
    after (.dataTally (tallyWith 0 0)) supplied (fun u => freed u && u.members.present = 2) = true ∧
    after (.dataTally (tallyWith 0 0)) { supplied.setLoanWay 0 { rank := 0, entry := some { freshLoan 0 0 with
        heldBy := some 2 } } with faults := [note, note] } (fun u => u.state = .halted &&
      u.supply.entries[2] = .free && u.supply.order = []) = true := by decide +kernel

/-- The state with the request r waiting for a position under tag 3, and a READ taken later that waits for one. -/
def queued (s : State) (r : Request) : State :=
  withRequest (withRequest s 3 r .position) 5 (.read 0x10000 1) .position

/-- For ReturnIsGrantedFirstAndDrainOffersLeave: the local request that was taken first, route by route. -/
theorem witness_PositionGrant_requests :
    let s := queued pool (.read 0x20004 2)
    let made (s : State) (r : Record) : Bool := after .positionGrant s fun u => u.recordAt 0 = some r &&
      u.bus.offers = [.record 0] && u.progress 3 = some (.onRecord 0) && u.progress 5 = some .position
    s.canonical ∧ s.freePosition = some 0 ∧ (∀ x ∈ s.earlier 3, s.wantsPosition x = false) ∧ s.walkApart 3 ∧
    s.reservedFor (.head 3) = none ∧ s.resolve 0x20004 = some (resOf pool 0x20004) ∧
    s.heldBack 3 2048 = false ∧ s.recordOf 2048 = none ∧ ¬ (resOf pool 0x20004).copied ∧
    made s (newRecord .readDirect 2048 none [3] (.words 1 2)) = true ∧
    made (queued pool (.operation (.pop 0x20000 1))) (newRecord .operate 2048 none [3] (.operate (.pop 0 1))) = true ∧
    made (queued pool (.write 0x10040 1 0xF [9])) (newRecord .writeThrough 1025 none [3]
      (writePayload (.write 0x10040 1 0xF [9]))) = true ∧
    made (queued (copyOf .read false false) (.write 64 1 0xF [9])) (newRecord .claim 1 (some 4) [3] .none) = true ∧
    made (queued pool (.read 64 1)) (newRecord .fetch 1 (some 4) [3] .none) = true ∧
    made (queued pool (.write 64 1 0xF [9])) (newRecord .fetchOwn 1 (some 4) [3] .none) = true := by
  refine ⟨canonical_of (by decide +kernel), by decide +kernel, by decide +kernel, walkApart_of rfl, by decide +kernel,
    by decide +kernel, by decide +kernel, by decide +kernel, ?_, ?_⟩
  · unfold Resolved.copied; decide +kernel
  · decide +kernel

/-- For ReturnIsGrantedFirstAndDrainOffersLeave: the flush walk, and the drain of LEAVING with a HELD slot and with a
loan entry alone. -/
theorem witness_PositionGrant_walk_and_drain :
    let f := withRequest (copyOf .held true false) 3 .flushAll .walk
    let w : State := withRequest { f with copy := { f.copy with walk := some ⟨3, [4], [], false⟩ } } 5
      (.read 0x10000 1) .position
    let l : State := { leaving with copy := (copyOf .held false false).copy,
                                    loans := (lent 4 none none false false).loans }
    w.canonical ∧ l.canonical ∧ (∀ x ∈ w.earlier 3, w.wantsPosition x = false) ∧
    (∀ x ∈ l.port.taken, l.wantsPosition x = false) ∧ l.loanKey 0 = some 0 ∧
    after .positionGrant w (fun u => u.recordAt 0 = some (newRecord .ret 1 (some 4) [] .none) &&
      (u.slotAt 4).state = .evicting && u.copy.walk = some ⟨3, [], [0], false⟩) = true ∧
    after .positionGrant l (fun u => u.recordAt 0 = some (newRecord .release 1 (some 4) [] .none) &&
      (u.slotAt 4).state = .evicting) = true ∧
    after .positionGrant { l with copy := leaving.copy } (fun u =>
      u.recordAt 0 = some (newRecord .recallAll 0 none [] .none) && (u.loanOf 0).map (·.busy) = some true) = true := by
  refine ⟨canonical_of (by decide +kernel), canonical_of (by decide +kernel), ?_⟩
  decide +kernel

end Sys2Proof.Tests
end

section
/-! SUPPORT. Canonical form (01 R8, 04 R61, 07 R122): every command keeps it, so every step does. -/
namespace Sys2Proof.Machine

/-- Every command keeps the home memory, the copy table and the loan table in canonical form. -/
theorem exec_keeps_canonical {c : Instr} {s u : State} (h : s.canonical) (hu : exec c s = .next u) :
    u.canonical := by
  cases c <;> cases hu
  case stationReset => exact s.canonical_resetStation h
  case powerOnReset sn => exact s.canonical_resetPower sn h
  all_goals apply State.canonical_settle
  case completionTake => exact s.canonical_takeCompletion h
  case contentionRound others void => exact s.canonical_contend others void h
  case publication pub => exact s.canonical_observe pub h
  case dataDeadlineExpiry p => exact s.canonical_deadlineExpiry p h
  case settleTimerExpiry => exact s.canonical_settleExpiry h
  case supplyReadEnd err => exact s.canonical_supplyReadEnd err h
  case localHomeReadEnd err => exact s.canonical_localReadEnd err h
  case memoryWriteEnd => exact s.canonical_memoryWriteEnd h
  case operationRunEnd err => exact s.canonical_runEnd err h
  case positionGrant => exact s.canonical_grantOne h
  case waitingRequestResumed t => exact s.canonical_resume t h
  case drainComplete => exact s.canonical_drainEnd h
  case fetchTally t | fetchOwnTally t | claimTally t | readDirectTally t | writeThroughTally t
     | operateTally t | returnTally t | releaseTally t | recallReadTally t | recallAllTally t
     | dataTally t | joinTally t | readyTally t | leaveTally t | unassignedKindTally t =>
    exact s.canonical_tally _ t h
  all_goals exact s.canonical_present _ h

/-- Settles O4: the queue of commands has no part in the canonical form, and every command keeps it. -/
theorem stepKeepsCanonical : Obligations.StepKeepsCanonical := by
  intro s u h hu
  unfold step at hu
  split at hu
  · cases hu
    exact h
  · rename_i c rest _
    exact exec_keeps_canonical (s := { s with pending := rest }) h hu

end Sys2Proof.Machine
end

section
/-! SUPPORT. What no command changes (01 R16, 02 R38): the queue of commands, the station number but at power-on
reset, and the window table and size code outside UNJOINED but at a reset. -/
namespace Sys2Proof.Machine

/-- The parts of the rim that only an event of RimEvent or a reset may change. -/
def Rim.fixed (r : Rim) : List Instr × Station × Decoder := (r.pending, r.number, r.decoder)

theorem Rim.fixed_departEnd (r : Rim) (retained : Bool) : (r.departEnd retained).fixed = r.fixed := by
  unfold Rim.departEnd
  (repeat' split) <;> rfl

theorem Rim.fixed_readied (r : Rim) (p : Station) : (r.readied p).fixed = r.fixed := by
  unfold Rim.readied
  split <;> rfl

theorem RimTally.fixed_eq {a b : Rim} (h : RimTally a b) : b.fixed = a.fixed := by
  cases h with
  | notice | halt | departHalt => rfl
  | depart => exact Rim.fixed_departEnd _ _
  | ready => exact a.fixed_readied _

theorem RimStep.fixed_eq {a b : Rim} (h : RimStep a b) : b.fixed = a.fixed := by
  cases h with
  | tally h => exact h.fixed_eq
  | _ => rfl

theorem RimEvent.pending_number {a b : Rim} (h : RimEvent a b) : b.pending = a.pending ∧ b.number = a.number := by
  cases h <;> exact ⟨rfl, rfl⟩

/-- The table and the size code are written in UNJOINED alone (R16); joining and leaving change the frozen mark. -/
theorem RimEvent.table_sizeCode {a b : Rim} (h : RimEvent a b) (ha : a.state ≠ .unjoined) :
    b.decoder.table = a.decoder.table ∧ b.decoder.sizeCode = a.decoder.sizeCode := by
  cases h with
  | join hs | table hs => exact absurd hs ha
  | _ => exact ⟨rfl, rfl⟩

theorem RimChain.fixed_eq {a b : Rim} (h : RimChain RimStep a b) : b.fixed = a.fixed :=
  h.keeps (Q := fun r => r.fixed = a.fixed) (fun _ _ hs hr => hs.fixed_eq.trans hr) rfl

/-- A command but a reset keeps the queue and the number, and outside UNJOINED the table and the size code. -/
theorem RimCommand.keeps_fixed {a b : Rim} (h : RimCommand a b) :
    b.pending = a.pending ∧ b.number = a.number ∧ (a.state ≠ .unjoined →
      b.decoder.table = a.decoder.table ∧ b.decoder.sizeCode = a.decoder.sizeCode) := by
  rcases h with h | h | h
  · have hf := h.fixed_eq
    simp only [Rim.fixed, Prod.mk.injEq] at hf
    obtain ⟨hp, hn, hd⟩ := hf
    exact ⟨hp, hn, fun _ => ⟨congrArg Decoder.table hd, congrArg Decoder.sizeCode hd⟩⟩
  · exact ⟨h.pending_number.1, h.pending_number.2, h.table_sizeCode⟩
  · exact ⟨h.pending_number.1, h.pending_number.2, h.table_sizeCode⟩

/-- The membership law and the bound of the fault record are what RimCommand.exec asks of a rim. -/
theorem State.rim_sound {s : State} (hm : s.membershipLaw) (hf : s.faultsBounded) : s.rim.sound := by
  obtain ⟨_, _, _, hphase, _⟩ := hm
  exact ⟨hf, hphase⟩

/-- Settles O3: by what a command but a reset does to the rim; a reset keeps the queue, and station reset the
number. -/
theorem queueNumberAndFrozenTableKept : Obligations.QueueNumberAndFrozenTableKept := by
  intro c s u hm hf hu
  cases hc : isReset c with
  | false =>
    obtain ⟨hp, hn, ht⟩ := (RimCommand.exec c s u hc (State.rim_sound hm hf) hu).keeps_fixed
    exact ⟨hp, fun _ => hn, fun hs _ => ht hs⟩
  | true =>
    cases c with
    | stationReset => cases hu; exact ⟨rfl, fun _ => rfl, by simp⟩
    | powerOnReset sn => cases hu; exact ⟨rfl, fun h => absurd rfl (h sn), by simp⟩
    | _ => cases hc

end Sys2Proof.Machine
end

section
/-! SUPPORT. What the resets leave (01 R18, 02 R38, 03 R39, 04 R63, 07 R119, 09 R171, 10 R179). -/
namespace Sys2Proof.Machine

/-- No position is in use in the state after reset (R82). -/
theorem State.positions_reset : ∀ p : RecordTag, State.reset.positions[p] = .free := by decide

/-- Power-on reset is a station reset with the number sampled from the slot pins (R38). -/
theorem State.resetPower_eq (s : State) (sn : BitVec 4) :
    s.resetPower sn = { s.resetStation with number := (s.resetPower sn).number } := rfl

theorem State.number_resetPower (s : State) (sn : BitVec 4) : (s.resetPower sn).number.val = sn.toNat := rfl

/-- Settles O8: field by field, State.resetStation has what State.reset has but for the number, the memory and the
accesses under way. -/
theorem resetLeavesTheStation : Obligations.ResetLeavesTheStation := by
  constructor
  · intro s
    refine ⟨s.resetStation, rfl, ?_⟩
    have hpos : ∀ p : RecordTag, s.resetStation.positions[p] = .free := State.positions_reset
    have hslots : ∀ k, s.resetStation.slotAt k = slotDefault k := fun _ => rfl
    have hloans : ∀ k, s.resetStation.loanWay k = loanDefault k := fun _ => rfl
    have hmem : s.sameMemory s.resetStation := fun _ => rfl
    exact ⟨rfl, rfl, rfl, rfl, rfl, hpos, hslots, rfl, rfl, hloans, rfl, rfl, rfl, rfl, rfl, rfl, rfl, hmem⟩
  · intro sn s
    exact ⟨s.resetPower sn, s.resetStation, rfl, rfl, s.number_resetPower sn, s.resetPower_eq sn⟩

end Sys2Proof.Machine
end

section
/-! SUPPORT. The checks of the JOIN command and the resolution of addresses (01 R6, R7, R14). -/
namespace Sys2Proof.Machine

/-- Windows that pass against each other have no address in common (R14). -/
theorem windowsApart_disjoint {self : Station} {e f : WindowEntry} {a : Nat} (h : windowsApart self e f = true)
    (he : windowContains e a = true) : windowContains f a = false := by
  refine Bool.eq_false_iff.mpr fun hf => ?_
  simp only [windowContains, Bool.and_eq_true, decide_eq_true_eq] at he hf
  obtain ⟨⟨_, hel⟩, heh⟩ := he
  obtain ⟨⟨hfv, hfl⟩, hfh⟩ := hf
  simp only [windowsApart, rangesMeet, hfv, Bool.not_true, Bool.false_or, Bool.and_eq_true, Bool.not_eq_true',
    Bool.and_eq_false_iff, decide_eq_false_iff_not] at h
  omega

theorem windowPasses_apart {self : Station} {code : BitVec 3} {lower : List WindowEntry} {e f : WindowEntry}
    (h : windowPasses self code lower e = true) (he : e.valid = true) (hf : f ∈ lower) :
    windowsApart self e f = true := by
  simp only [windowPasses, he, Bool.not_true, Bool.false_or, Bool.and_eq_true, List.all_eq_true] at h
  exact h.1.2 f hf

/-- Every window of a list that passes is apart from those before it (R14). -/
theorem failingFrom_apart (self : Station) (code : BitVec 3) (es : List WindowEntry) :
    ∀ (lower : List WindowEntry) (i : Nat), failingFrom self code lower i es = none →
      (∀ e ∈ es, e.valid = true → ∀ f ∈ lower, windowsApart self e f = true) ∧
      es.Pairwise fun f e => e.valid = true → windowsApart self e f = true := by
  induction es with
  | nil => intro _ _ _; exact ⟨by simp, .nil⟩
  | cons e es ih =>
    intro lower i h
    unfold failingFrom at h
    split at h
    · rename_i hpass
      obtain ⟨hlower, hpair⟩ := ih _ _ h
      constructor
      · intro x hx hv f hf
        rcases List.mem_cons.mp hx with rfl | hx
        · exact windowPasses_apart hpass hv hf
        · exact hlower x hx hv f (List.mem_append_left _ hf)
      · exact .cons (fun x hx hv => hlower x hx hv e (by simp)) hpair
    · cases h

/-- Of two windows of a table that passes, the later one is apart from the earlier one (R14). -/
theorem failingWindow_apart {self : Station} {code : BitVec 3} {t : WindowTable}
    (h : failingWindow self code t = none) {i j : Station} (hij : i < j) (hv : t[j].valid = true) :
    windowsApart self t[j] t[i] = true := by
  have hpair := (failingFrom_apart self code t.toList [] 0 h).2
  exact List.pairwise_iff_getElem.mp hpair i j (by simp) (by simp) hij hv

theorem valid_of_windowContains {e : WindowEntry} {a : Nat} (h : windowContains e a = true) : e.valid = true := by
  simp only [windowContains, Bool.and_eq_true] at h
  exact h.1.1

/-- In a table that passes, no window after window i contains an address of window i (R6, R14). -/
theorem failingWindow_disjoint {self : Station} {code : BitVec 3} {t : WindowTable}
    (h : failingWindow self code t = none) {i j : Station} {a : Nat} (hij : i < j)
    (hi : windowContains t[i] a = true) : windowContains t[j] a = false := by
  refine Bool.eq_false_iff.mpr fun hj => ?_
  have hd := windowsApart_disjoint (failingWindow_apart h hij (valid_of_windowContains hj)) hj
  rw [hi] at hd
  cases hd

/-- The home station and index of the line at offset k of a PRIVATE window (R7). -/
theorem home_of_priv {self : Station} {e : WindowEntry} {a : Nat} (h : e.mode = .priv) :
    homeStation self e a = self ∧ homeIndex e a = e.homeBase.toNat * 1024 + lineOffset e a := by
  simp [homeStation, homeIndex, h]

/-- The home station and index of the line at offset k of a striped window (R7). -/
theorem home_of_striped {self : Station} {e : WindowEntry} {a : Nat} (h : e.mode ≠ .priv) :
    homeStation self e a = stripeAt e (lineOffset e a % stripeCount e) ∧
    homeIndex e a = e.homeBase.toNat * 1024 + lineOffset e a / stripeCount e := by
  simp [homeStation, homeIndex, h]

/-- What an address in window i resolves to (R6, R7). -/
theorem State.resolve_of_findWindow {s : State} {i : Station} {a : Nat} (h : findWindow s.decoder.table a = some i) :
    s.resolve a = some
      { window := i, entry := s.decoder.table[i], home := homeStation s.number s.decoder.table[i] a,
        index := homeIndex s.decoder.table[i] a, word := (a % 64) / 4, line := BitVec.ofNat 26 (a / 64),
        here := homeStation s.number s.decoder.table[i] a = s.number,
        writer := inSet s.decoder.table[i].writers s.number } := by
  unfold State.resolve
  rw [h]

/-- Settles O20: two windows that share an address are neither of them the later one; and the resolution is read
off window by window. -/
theorem addressesResolveOneWay : Obligations.AddressesResolveOneWay := by
  constructor
  · intro self code t h i j a hi hj
    rcases Nat.lt_trichotomy i.val j.val with hij | hij | hij
    · rw [failingWindow_disjoint h hij hi] at hj; cases hj
    · exact Fin.ext hij
    · rw [failingWindow_disjoint h hij hj] at hi; cases hi
  · intro s i a k hw hk
    subst hk
    refine ⟨_, s.resolve_of_findWindow hw, rfl, rfl, BitVec.toNat_ofNat _ _, rfl, ?_, ?_, ?_⟩
    · exact home_of_priv
    · exact home_of_striped
    · exact decide_eq_true_iff

end Sys2Proof.Machine
end

section
/-! SUPPORT. A pool request at its taking (R160, R162), and what the end of its step keeps: the layer that the
statements about requests at the port stand on. -/
namespace Sys2Proof.Machine

/-! ### What depends on one part of the state alone -/

theorem State.entry_of_port {s u : State} (h : u.port = s.port) (t : Tag) : u.entry t = s.entry t := by
  unfold State.entry
  rw [h]

theorem State.recordAt_of_positions {s u : State} (h : u.positions = s.positions) (p : RecordTag) :
    u.recordAt p = s.recordAt p := by
  unfold State.recordAt
  rw [h]

theorem State.reservedFor_of_positions {s u : State} (h : u.positions = s.positions) (w : Waiter) :
    u.reservedFor w = s.reservedFor w := by
  unfold State.reservedFor
  rw [h]

theorem State.loanWay_of_loans {s u : State} (h : u.loans = s.loans) (k : Nat) : u.loanWay k = s.loanWay k := by
  unfold State.loanWay
  rw [h]

theorem State.loanKey_of_loans {s u : State} (h : u.loans = s.loans) (i : Nat) : u.loanKey i = s.loanKey i := by
  unfold State.loanKey
  simp only [State.loanWay_of_loans h]

theorem State.loanOf_of_loans {s u : State} (h : u.loans = s.loans) (i : Nat) : u.loanOf i = s.loanOf i := by
  unfold State.loanOf
  simp only [State.loanKey_of_loans h, State.loanWay_of_loans h]

theorem State.lineLost_of_loans {s u : State} (h : u.loans = s.loans) (i : Nat) : u.lineLost i = s.lineLost i := by
  unfold State.lineLost
  rw [State.loanOf_of_loans h]

/-! ### What the end of a step keeps -/

theorem State.sameStation_settle {s v : State} (h : v.rim = s.rim) : s.sameStation v.settle :=
  State.sameStation_of_rim (v.rim_settle.trans h)

theorem State.sameMemory_settle {s v : State} (h : v.bank.mem = s.bank.mem) : s.sameMemory v.settle := by
  intro a
  rw [State.settle_bank, h]

theorem State.sameQueues_settle {s v : State} (hb : v.bank = s.bank) (hs : v.supply = s.supply)
    (hq : v.homeQueue = s.homeQueue) : s.sameQueues v.settle := by
  have hb' : v.settle.bank = s.bank := v.settle_bank.trans hb
  exact ⟨congrArg Bank.run hb', congrArg Bank.held hb', congrArg Bank.inFlight hb', v.settle_supply.trans hs,
    v.settle_homeQueue.trans hq⟩

/-- Outside LEAVING the end of a step drops no READ copy (R51). -/
theorem State.sameCopies_settle {s v : State} (hc : v.copy = s.copy) (hs : v.state ≠ .leaving) :
    s.sameCopies v.settle := by
  intro k
  rw [v.settle_slotAt k hs]
  unfold State.slotAt
  rw [hc]

/-- The end of a step completes no request but the FLUSH_ALL of a walk (R80). -/
theorem State.sameEntriesBut_settle {s v : State} {t : Tag} (hw : v.copy.walk = s.copy.walk)
    (h : ∀ x, x ≠ t → v.entry x = s.entry x) : s.sameEntriesBut v.settle t := by
  intro x hx hwalk
  rw [v.settle_entry x (.inl (fun w h' => hwalk w (hw ▸ h')))]
  exact h x hx

theorem State.entry_settle_apart {s v : State} {t : Tag} (hw : v.copy.walk = s.copy.walk) (h : s.walkApart t) :
    v.settle.entry t = v.entry t :=
  v.settle_entry t (.inl (fun w h' => h w (hw ▸ h')))

/-! ### The taking of a pool request -/

theorem startProgress_pool {r : Request} {a : Word} (h : requestAddress r = some a) : startProgress r = .line := by
  cases r with
  | read | write | operation | flushLine | discardLine | repairLine => rfl
  | _ => cases h

theorem State.entry_opened_pool {r : Request} {a : Word} (h : requestAddress r = some a) (s : State) (t : Tag) :
    (s.opened t r).entry t = .opened r .line := by
  rw [State.entry_opened, if_pos rfl, startProgress_pool h]

theorem State.entry_opened_other (s : State) {t x : Tag} (r : Request) (h : x ≠ t) :
    (s.opened t r).entry x = s.entry x := by
  rw [State.entry_opened, if_neg h]

/-- A request with a pool address is dispatched as one (R162). -/
theorem State.dispatch_pool {r : Request} {a : Word} (h : requestAddress r = some a) (s : State) (t : Tag) :
    s.dispatch t r = s.dispatchPool t r a := by
  cases r with
  | read | write | operation | flushLine | discardLine | repairLine => cases h; rfl
  | _ => cases h

/-- The refusals of a pool request in their order (R12, R40). -/
theorem State.dispatchPool_refused {s : State} {r : Request} {a : Word} {st : Status} (t : Tag)
    (hs : s.state ≠ .halted) (h : s.decoder.frozen = false ∧ st = .notMember ∨
      s.decoder.frozen = true ∧ s.windowCheck r a = .error st) :
    s.dispatchPool t r a = s.complete t st [] := by
  unfold State.dispatchPool
  rw [if_neg hs]
  rcases h with ⟨hf, rfl⟩ | ⟨hf, hw⟩
  · rw [if_pos (by simp [hf])]
  · rw [if_neg (by simp [hf]), hw]

/-- A pool request that passes its checks is judged by the station state (R40). -/
theorem State.dispatchPool_checked {s : State} {r : Request} {a : Word} {res : Resolved} (t : Tag)
    (hs : s.state ≠ .halted) (hf : s.decoder.frozen = true) (hw : s.windowCheck r a = .ok res) :
    s.dispatchPool t r a = s.judge t r res := by
  unfold State.dispatchPool
  rw [if_neg hs, if_neg (by simp [hf]), hw]

end Sys2Proof.Machine
end

section
/-! SUPPORT. A pool request that fails a check (01 R6, R12, 03 R40, 09 R162). -/
namespace Sys2Proof.Machine

/-- A refused pool request is taken and completes at once (R162). -/
theorem State.present_refused {s : State} {r : Request} {a : Word} {st : Status} {t : Tag}
    (ha : requestAddress r = some a) (ht : s.freeTag = some t) (hs : s.state ≠ .halted)
    (h : s.decoder.frozen = false ∧ st = .notMember ∨
      s.decoder.frozen = true ∧ s.windowCheck r a = .error st) :
    s.present r = (s.opened t r).complete t st [] := by
  rw [State.present_taken r ht, State.dispatch_pool ha]
  exact State.dispatchPool_refused t hs h

/-- Settles O13: the completion touches the port alone, and the end of the step keeps the rest. -/
theorem poolRequestsAreCheckedFirst : Obligations.PoolRequestsAreCheckedFirst := by
  intro c r a st s t hc ha ht hs h
  have hnext := exec_present s hc
  rw [State.present_refused ha ht hs h] at hnext
  have hdone : ((s.opened t r).complete t st []).entry t = .done st [] :=
    State.entry_complete_self st [] (s.entry_opened_pool ha t)
  refine ⟨_, hnext, State.settle_done _ t st [] hdone, State.sameStation_settle (by simp),
    State.sameMemory_settle (by simp), State.sameQueues_settle (by simp) (by simp) (by simp), ?_, ?_, ?_⟩
  · rw [State.settle_positions]
    simp
  · intro hl
    have hstate : ((s.opened t r).complete t st []).state = s.state := congrArg Rim.state (State.rim_complete ..)
    have hl' : ((s.opened t r).complete t st []).state ≠ .leaving := hstate ▸ hl
    exact ⟨State.sameCopies_settle (by simp) hl', (State.settle_loans _ hl').trans (by simp)⟩
  · refine State.sameEntriesBut_settle (by simp) fun x hx => ?_
    rw [State.entry_complete_other _ st [] hx.symm, State.entry_opened_other s r hx]

end Sys2Proof.Machine
end

section
/-! SUPPORT. Requests of home and PRIVATE lines (01 R10, 03 R40, 07 R119, R120, R140, 08 R150, R151): how the port
hands them to the home unit, and the access that the home unit hands to the bank. -/
namespace Sys2Proof.Machine

/-! ### Accesses at the bank (R119, R151) -/

/-- The kinds of requests whose access reads home memory or starts a run: none stores a byte when it is handed to
the bank (R150, R151). -/
def readsBank : Request → Bool
  | .read .. | .operation _ => true
  | _ => false

/-- The read access of a local READ, as it is issued (R119, R141). -/
def State.localAccess (s : State) (t : Tag) (a : Word) (n : BitVec 5) (res : Resolved) : Access :=
  .localRead (some t) (s.lineLost res.index) (sliceLine (readLine s.bank.mem res.index) (wordIndex a) n.toNat)

/-- The run of a local pool operation (R150, R151). -/
def State.localRun (s : State) (t : Tag) (op : PoolOp) (res : Resolved) : Run :=
  { owner := .request t, op := op, line := res.line, lost := s.lineLost res.index, refusal := none }

/-- While a run is under way an access is held, and nothing else of the bank changes (R151). -/
theorem State.bank_issue_held {s : State} (h : s.bank.run ≠ none) (d : Due) :
    (s.issue d).bank = { s.bank with held := s.bank.held ++ [d] } := by
  unfold State.issue
  split
  · rfl
  · rename_i hn
    exact absurd hn h

/-- With no run under way a READ takes its words from the bank (R119, R141). -/
theorem State.bank_actBank_read {s : State} (h : s.bank.run = none) (t : Tag) (a : Word) (n : BitVec 5)
    (res : Resolved) :
    (s.actBank t (.read a n) res).bank =
      { s.bank with inFlight := s.bank.inFlight ++ [s.localAccess t a n res] } := by
  simp only [State.actBank, State.issue, h, State.localAccess]

/-- With no run under way a pool operation starts its own (R151). -/
theorem State.bank_actBank_operation {s : State} (h : s.bank.run = none) (t : Tag) (op : PoolOp)
    (res : Resolved) :
    (s.actBank t (.operation op) res).bank = { s.bank with run := some (s.localRun t op res) } := by
  simp only [State.actBank, State.issue, h, State.localRun]

theorem State.bank_actBank_read_held {s : State} (h : s.bank.run ≠ none) (t : Tag) (a : Word) (n : BitVec 5)
    (res : Resolved) :
    (s.actBank t (.read a n) res).bank =
      { s.bank with held := s.bank.held ++ [.localRead t res.index (wordIndex a) n.toNat] } :=
  s.bank_issue_held h _

theorem State.bank_actBank_operation_held {s : State} (h : s.bank.run ≠ none) (t : Tag) (op : PoolOp)
    (res : Resolved) :
    (s.actBank t (.operation op) res).bank =
      { s.bank with held := s.bank.held ++ [.operate (s.localRun t op res)] } :=
  s.bank_issue_held h _

/-- A READ or pool operation stores nothing when it is handed to the bank. -/
theorem State.mem_actBank (s : State) (t : Tag) {r : Request} (hr : readsBank r = true) (res : Resolved) :
    (s.actBank t r res).bank.mem = s.bank.mem := by
  cases r with
  | read a n =>
    by_cases h : s.bank.run = none
    · rw [s.bank_actBank_read h]
    · rw [s.bank_actBank_read_held h]
  | operation op =>
    by_cases h : s.bank.run = none
    · rw [s.bank_actBank_operation h]
    · rw [s.bank_actBank_operation_held h]
  | _ => cases hr

/-! ### A request handed to the bank at its taking -/

/-- The request r, just taken with tag t, has its access handed to the bank. -/
def State.accessed (s : State) (t : Tag) (r : Request) (res : Resolved) : State :=
  ((s.opened t r).setProgress t .bank).actBank t r res

theorem State.entry_opened_setProgress {r : Request} {a : Word} (ha : requestAddress r = some a) (s : State)
    (t : Tag) (p : Progress) : ((s.opened t r).setProgress t p).entry t = .opened r p := by
  rw [State.entry_setProgress, s.entry_opened_pool ha]
  simp

theorem State.entry_opened_setProgress_other (s : State) {t x : Tag} (r : Request) (p : Progress) (h : x ≠ t) :
    ((s.opened t r).setProgress t p).entry x = s.entry x := by
  rw [State.entry_setProgress, s.entry_opened_other r h]
  cases s.entry x <;> simp [h]

section accessed
variable (s : State) (t : Tag) (r : Request) (res : Resolved)

@[simp] theorem State.rim_accessed : (s.accessed t r res).rim = s.rim := by simp [State.accessed]
@[simp] theorem State.copy_accessed : (s.accessed t r res).copy = s.copy := by simp [State.accessed]
@[simp] theorem State.loans_accessed : (s.accessed t r res).loans = s.loans := by simp [State.accessed]
@[simp] theorem State.positions_accessed : (s.accessed t r res).positions = s.positions := by
  simp [State.accessed]
@[simp] theorem State.supply_accessed : (s.accessed t r res).supply = s.supply := by simp [State.accessed]
@[simp] theorem State.homeQueue_accessed : (s.accessed t r res).homeQueue = s.homeQueue := by
  simp [State.accessed]

theorem State.entry_accessed {a : Word} (ha : requestAddress r = some a) :
    (s.accessed t r res).entry t = .opened r .bank := by
  unfold State.accessed
  rw [State.entry_of_port (State.port_actBank ..) t]
  exact s.entry_opened_setProgress ha t .bank

theorem State.entry_accessed_other {x : Tag} (h : x ≠ t) : (s.accessed t r res).entry x = s.entry x := by
  unfold State.accessed
  rw [State.entry_of_port (State.port_actBank ..) x]
  exact s.entry_opened_setProgress_other r .bank h

theorem State.mem_accessed (hr : readsBank r = true) : (s.accessed t r res).bank.mem = s.bank.mem := by
  unfold State.accessed
  rw [State.mem_actBank _ t hr]
  simp

/-- The taking of a request leaves the bank and the lost marks, which its access finds. -/
theorem State.bank_lineLost_opened (p : Progress) (i : Nat) :
    ((s.opened t r).setProgress t p).bank = s.bank ∧
    ((s.opened t r).setProgress t p).lineLost i = s.lineLost i :=
  ⟨by simp, State.lineLost_of_loans (by simp) i⟩

end accessed

/-- The access of a READ that is handed to the bank at its taking (R119, R141, R151). -/
theorem State.bank_accessed_read (s : State) (t : Tag) (a : Word) (n : BitVec 5) (res : Resolved) :
    (s.bank.run = none → (s.accessed t (.read a n) res).bank =
      { s.bank with inFlight := s.bank.inFlight ++ [s.localAccess t a n res] }) ∧
    (s.bank.run ≠ none → (s.accessed t (.read a n) res).bank =
      { s.bank with held := s.bank.held ++ [.localRead t res.index (wordIndex a) n.toNat] }) := by
  obtain ⟨hb, hl⟩ := s.bank_lineLost_opened t (.read a n) .bank res.index
  unfold State.accessed
  constructor <;> intro h
  · rw [State.bank_actBank_read (hb.symm ▸ h), State.localAccess, hb, hl, State.localAccess]
  · rw [State.bank_actBank_read_held (hb.symm ▸ h), hb]

/-- The run of a pool operation that is handed to the bank at its taking (R150, R151). -/
theorem State.bank_accessed_operation (s : State) (t : Tag) (op : PoolOp) (res : Resolved) :
    (s.bank.run = none → (s.accessed t (.operation op) res).bank =
      { s.bank with run := some (s.localRun t op res) }) ∧
    (s.bank.run ≠ none → (s.accessed t (.operation op) res).bank =
      { s.bank with held := s.bank.held ++ [.operate (s.localRun t op res)] }) := by
  obtain ⟨hb, hl⟩ := s.bank_lineLost_opened t (.operation op) .bank res.index
  unfold State.accessed
  constructor <;> intro h
  · rw [State.bank_actBank_operation (hb.symm ▸ h), State.localRun, hb, hl, State.localRun]
  · rw [State.bank_actBank_operation_held (hb.symm ▸ h), State.localRun, hb, hl, State.localRun]

/-! ### The way of a request to the home unit -/

/-- The kinds of requests that the home unit handles on a home line (R140). -/
def homeKind : Request → Bool
  | .read .. | .write .. | .operation _ | .repairLine _ => true
  | _ => false

theorem homeKind_of_readsBank {r : Request} (h : readsBank r = true) : homeKind r = true := by
  cases r with
  | read | operation => rfl
  | _ => cases h

/-! ### What the conditions of a statement say of its request -/

theorem State.serves.member {s : State} {t : Tag} {r : Request} {res : Resolved} (h : s.serves t r res) :
    s.state = .member := by
  obtain ⟨_, hs, _⟩ := h
  exact hs

theorem State.serves.unreserved {s : State} {t : Tag} {r : Request} {res : Resolved} (h : s.serves t r res) :
    s.reservedFor (.head t) = none := by
  obtain ⟨_, _, _, _, _, _, hres⟩ := h
  exact hres

theorem State.serves.address {s : State} {t : Tag} {r : Request} {res : Resolved} (h : s.serves t r res) :
    ∃ a, requestAddress r = some a := by
  obtain ⟨_, _, _, ⟨a, ha, _⟩, _⟩ := h
  exact ⟨a, ha⟩

theorem State.servesPrivate.walkApart {s : State} {t : Tag} {r : Request} {a : Word} {res : Resolved}
    (h : s.servesPrivate t r a res) : s.walkApart t := by
  obtain ⟨_, hw, _⟩ := h
  exact hw

/-! ### The requests that act at once -/

/-- A request on a home line that nothing holds back is handled by the home unit (R10, R140). -/
theorem State.route_here {s : State} {t : Tag} {r : Request} {res : Resolved} (hk : homeKind r = true)
    (hb : s.heldBack t res.line = false) (hh : res.here = true) : s.route t r res = s.handleHome t r res := by
  cases r with
  | read | write | operation | repairLine => simp [State.route, hb, hh]
  | _ => cases hk

theorem State.judge_member {s : State} {t : Tag} {r : Request} {res : Resolved} (hs : s.state = .member)
    (hm : res.entry.mode ≠ .priv) : s.judge t r res = (s.route t r res).releaseReserve t := by
  unfold State.judge
  rw [if_neg hm, hs]

theorem State.releaseReserve_none {s : State} {t : Tag} (h : s.reservedFor (.head t) = none) :
    s.releaseReserve t = s := by
  unfold State.releaseReserve
  rw [h]

/-- A request on a home line that the port serves reaches the home unit at its taking (R140, R162). -/
theorem State.present_home {s : State} {t : Tag} {r : Request} {res : Resolved} (h : s.serves t r res)
    (hk : homeKind r = true) (hh : res.here = true) :
    s.present r = ((s.opened t r).handleHome t r res).releaseReserve t := by
  obtain ⟨ht, hs, hf, ⟨a, ha, hw⟩, hm, hline, _⟩ := h
  have hn : (s.opened t r).state ≠ .halted := fun e => by rw [State.state_opened, hs] at e; cases e
  rw [State.present_taken r ht, State.dispatch_pool ha, State.dispatchPool_checked t hn hf hw,
    State.judge_member (s := s.opened t r) hs hm, State.route_here hk (State.heldBack_opened s t r _ hline) hh]

/-- The home unit acts on a request at once when its line has no home queue entry and needs no recall (R140). -/
theorem State.handleHome_acts {s : State} {t : Tag} {r : Request} {res : Resolved} (ho : s.homeOf t = none)
    (hq : s.homeHas res.line = false) (hr : s.recallStands res.line = false)
    (hn : recallNeed (s.loanOf res.index) r = none) : s.handleHome t r res = s.actHome t r res := by
  simp [State.handleHome, ho, hq, hr, hn]

/-- A READ or pool operation acts by its access; the way of the line's loan is refreshed (R119, R122, R150). -/
theorem State.actHome_reads {s : State} {t : Tag} {r : Request} {res : Resolved} (ho : s.homeOf t = none)
    (hr : readsBank r = true) :
    s.actHome t r res = ((s.setProgress t .bank).actBank t r res).refreshLoan res.index := by
  cases r with
  | read | operation => simp [State.actHome, ho, requestWholeLine]
  | _ => cases hr

/-- A READ or pool operation on a home line that needs no recall is handed to the bank at its taking (R140). -/
theorem State.present_access {s : State} {t : Tag} {r : Request} {res : Resolved} (h : s.serves t r res)
    (hk : readsBank r = true) (hh : res.here = true) (ho : s.homeOf t = none) (hq : s.homeHas res.line = false)
    (hr : s.recallStands res.line = false) (hn : recallNeed (s.loanOf res.index) r = none) :
    s.present r = (s.accessed t r res).refreshLoan res.index := by
  have hres : ((s.accessed t r res).refreshLoan res.index).reservedFor (.head t) = none := by
    rw [State.reservedFor_of_positions (s := s) (by simp), h.unreserved]
  rw [State.present_home h (homeKind_of_readsBank hk) hh, State.handleHome_acts (s := s.opened t r) ho hq hr hn,
    State.actHome_reads (s := s.opened t r) ho hk]
  exact State.releaseReserve_none hres

/-- A request on a PRIVATE line goes its way at its taking, whatever else is under way (R10, R40, R120). -/
theorem State.present_private {s : State} {t : Tag} {r : Request} {a : Word} {res : Resolved}
    (ha : requestAddress r = some a) (h : s.servesPrivate t r a res) :
    s.present r = (s.opened t r).handlePrivate t r res := by
  obtain ⟨ht, _, hs, hf, hw, hm⟩ := h
  have hn : (s.opened t r).state ≠ .halted := fun e => by
    rw [State.state_opened] at e
    rw [e] at hs
    simp at hs
  rw [State.present_taken r ht, State.dispatch_pool ha, State.dispatchPool_checked t hn hf hw]
  unfold State.judge
  rw [if_pos hm]

/-- A READ or pool operation on a PRIVATE line is handed to the bank (R120). -/
theorem State.handlePrivate_reads (s : State) (t : Tag) {r : Request} (res : Resolved) (hr : readsBank r = true) :
    (s.opened t r).handlePrivate t r res = s.accessed t r res := by
  cases r with
  | read | operation => rfl
  | _ => cases hr

/-- What a request on a PRIVATE line does to another request: nothing (R120). -/
theorem State.entry_handlePrivate_other (s : State) {t x : Tag} (r : Request) (res : Resolved) (h : x ≠ t) :
    ((s.opened t r).handlePrivate t r res).entry x = s.entry x := by
  unfold State.handlePrivate
  split
  case h_4 => rw [State.entry_complete_other _ _ _ h.symm, s.entry_opened_other _ h]
  all_goals exact s.entry_accessed_other t _ res h

end Sys2Proof.Machine
end

section
/-! SUPPORT. A request of a home line that needs its copies brought home (07 R135, R138, R140 to R143): it joins the
home queue as its line's head, and its recall is made in a position for which nothing else waits (05 R85). -/
namespace Sys2Proof.Machine

/-! ### A home queue entry taken for a request (R138) -/

/-- After entry e is taken, every other entry reads as before. -/
theorem State.homeEntries_takeHome (s : State) (e f : Fin 8) (v : HomeEntry) :
    (s.takeHome e v).homeQueue.entries[f] = if f = e then v else s.homeQueue.entries[f] := by
  unfold State.takeHome
  by_cases h : f = e
  · subst h
    simp
  · have hv : ¬ e.val = f.val := fun hef => h (Fin.ext hef.symm)
    simp [h, hv]

/-- A free entry taken for tag t gives no other tag a home queue entry. -/
theorem State.homeOf_takeHome {s : State} {e : Fin 8} (l : LineAddr) {t x : Tag} (c : LocalCondition)
    (hf : s.homeQueue.entries[e] = .free) (hx : x ≠ t) :
    (s.takeHome e (.request l t c)).homeOf x = s.homeOf x := by
  unfold State.homeOf
  refine congrArg (homeNumbers.find? ·) (funext fun f => ?_)
  rw [State.homeEntries_takeHome]
  by_cases h : f = e
  · subst h
    simp [hf, hx.symm]
  · rw [if_neg h]

/-- An element that a search passes over may be moved to the end of the list. -/
theorem find?_moved_last {α : Type} [DecidableEq α] {q : α → Bool} {e : α} (h : q e = false) (l : List α) :
    (l.filter (· ≠ e) ++ [e]).find? q = l.find? q := by
  have hq : (fun x => !decide (x = e) && q x) = q := by
    funext x
    by_cases hx : x = e
    · subst hx
      simp [h]
    · simp [hx]
  rw [List.find?_append, List.find?_filter, List.find?_singleton, h]
  simp [hq]

/-- A free entry taken for line l leaves the head of every other line. -/
theorem State.homeHead_takeHome {s : State} {e : Fin 8} {l l' : LineAddr} (t : Tag) (c : LocalCondition)
    (hf : s.homeQueue.entries[e] = .free) (hl : l' ≠ l) :
    (s.takeHome e (.request l t c)).homeHead l' = s.homeHead l' := by
  have hq : (fun f : Fin 8 => decide ((s.takeHome e (.request l t c)).homeQueue.entries[f].line = some l')) =
      fun f => decide (s.homeQueue.entries[f].line = some l') := by
    funext f
    rw [State.homeEntries_takeHome]
    by_cases h : f = e
    · subst h
      simp [hf, HomeEntry.line, hl.symm]
    · rw [if_neg h]
  unfold State.homeHead
  rw [hq]
  exact find?_moved_last (by simp [hf, HomeEntry.line]) s.homeQueue.order

/-! ### Whether another request waits for a position (R85) -/

theorem any_congr_mem {α : Type} {p q : α → Bool} {l : List α} (h : ∀ a ∈ l, p a = q a) : l.any p = l.any q := by
  induction l with
  | nil => rfl
  | cons a l ih =>
    rw [List.any_cons, List.any_cons, h a (List.mem_cons_self ..), ih fun x hx => h x (List.mem_cons_of_mem a hx)]

/-- In u request x and those taken before it stand as in s. -/
def State.sameUpTo (s u : State) (x : Tag) : Prop :=
  u.earlier x = s.earlier x ∧ u.entry x = s.entry x ∧ ∀ y ∈ s.earlier x, u.entry y = s.entry y

theorem State.sameUpTo.heldBack {s u : State} {x : Tag} (h : s.sameUpTo u x) (l : LineAddr) :
    u.heldBack x l = s.heldBack x l := by
  obtain ⟨hearlier, _, hentry⟩ := h
  unfold State.heldBack
  rw [hearlier]
  refine any_congr_mem fun y hy => ?_
  rw [hentry y hy]

theorem State.sameUpTo.walkQueued {s u : State} {x : Tag} (h : s.sameUpTo u x) :
    u.walkQueued x = s.walkQueued x := by
  obtain ⟨hearlier, _, hentry⟩ := h
  unfold State.walkQueued
  rw [hearlier]
  refine any_congr_mem fun y hy => ?_
  unfold State.progress
  rw [hentry y hy]

theorem State.recordOf_of_positions {s u : State} (h : u.positions = s.positions) (l : LineAddr) :
    u.recordOf l = s.recordOf l := by
  unfold State.recordOf
  simp only [State.recordAt_of_positions h]

theorem State.recallStands_of_positions {s u : State} (h : u.positions = s.positions) (l : LineAddr) :
    u.recallStands l = s.recallStands l := by
  unfold State.recallStands
  rw [State.recordOf_of_positions h]

theorem State.sameUpTo.walkDue {s u : State} {x : Tag} (h : s.sameUpTo u x) (hc : u.copy = s.copy)
    (hw : u.walkSlots = s.walkSlots) : u.walkDue x = s.walkDue x := by
  unfold State.walkDue State.walkRuns
  rw [h.walkQueued, hc, hw]

/-- What decides whether a request that waits for no home queue entry waits for a position (R85). -/
theorem State.sameUpTo.wantsPosition {s u : State} {x : Tag} (h : s.sameUpTo u x)
    (hp : u.positions = s.positions) (hc : u.copy = s.copy) (hw : u.walkSlots = s.walkSlots)
    (hq : u.queuedWaits x = s.queuedWaits x) (hr : u.queuedReady x = s.queuedReady x)
    (hf : s.progress x ≠ some .homeFull) : u.wantsPosition x = s.wantsPosition x := by
  have hx : u.entry x = s.entry x := h.2.1
  unfold State.wantsPosition
  rw [hx]
  split
  case h_2 =>
    split
    · rw [h.heldBack, State.recordOf_of_positions hp]
    · rfl
  case h_3 r he => exact absurd (State.progress_of_entry he) hf
  case h_4 => rw [hq, hr]
  case h_5 => rw [hc]
  case h_6 => exact h.walkDue hc hw
  all_goals rfl

/-- The home queue entry that another request has is not the one just taken, and reads as before. -/
theorem State.entry_homeOf_takeHome {s : State} {e f : Fin 8} {l : LineAddr} {t x : Tag} (c : LocalCondition)
    (hf : s.homeQueue.entries[e] = .free) (hx : s.homeOf x = some f) :
    (s.takeHome e (.request l t c)).homeQueue.entries[f] = s.homeQueue.entries[f] := by
  have hne : f ≠ e := by
    rintro rfl
    have hu := List.find?_some hx
    simp [hf] at hu
  rw [State.homeEntries_takeHome, if_neg hne]

theorem State.queuedWaits_takeHome {s : State} {e : Fin 8} (l : LineAddr) {t x : Tag} (c : LocalCondition)
    (hf : s.homeQueue.entries[e] = .free) (hx : x ≠ t) :
    (s.takeHome e (.request l t c)).queuedWaits x = s.queuedWaits x := by
  unfold State.queuedWaits
  rw [State.homeOf_takeHome l c hf hx]
  split
  · rename_i f hf'
    rw [State.entry_homeOf_takeHome c hf hf']
  · rfl

theorem State.line_of_homeHas {s : State} {l : LineAddr} (h : s.homeHas l = false) (f : Fin 8) :
    s.homeQueue.entries[f].line ≠ some l := by
  unfold State.homeHas at h
  rw [List.any_eq_false] at h
  have hmem : f ∈ homeNumbers := by revert f; decide
  simpa using h f hmem

/-- A request in the home queue is ready as before when a free entry is taken for a line that had none. -/
theorem State.queuedReady_takeHome {s : State} {e : Fin 8} {l : LineAddr} {t x : Tag} (c : LocalCondition)
    (hf : s.homeQueue.entries[e] = .free) (hl : s.homeHas l = false) (hx : x ≠ t) :
    (s.takeHome e (.request l t c)).queuedReady x = s.queuedReady x := by
  unfold State.queuedReady
  rw [State.homeOf_takeHome l c hf hx]
  split
  · rfl
  · rename_i f hf'
    rw [State.entry_homeOf_takeHome c hf hf']
    cases he : s.homeQueue.entries[f] with
    | request l' u d =>
      have hl' : l' ≠ l := by
        rintro rfl
        exact State.line_of_homeHas hl f (by rw [he]; rfl)
      have hr : (s.takeHome e (.request l t c)).recallStands l' = s.recallStands l' :=
        State.recallStands_of_positions rfl l'
      simp only [State.homeHead_takeHome t c hf hl', hr]
    | _ => rfl

/-! ### The tags taken before another (R160) -/

theorem takeWhile_ne_append {x : Tag} {l l' : List Tag} (h : x ∈ l) :
    (l ++ l').takeWhile (· ≠ x) = l.takeWhile (· ≠ x) := by
  induction l with
  | nil => cases h
  | cons a l ih =>
    by_cases ha : a = x
    · simp [ha]
    · have hx : x ∈ l := by simpa [Ne.symm ha] using h
      simpa [ha] using ih hx

theorem mem_takeWhile_ne_trans {t x y : Tag} {l : List Tag} (hx : x ∈ l.takeWhile (· ≠ t))
    (hy : y ∈ l.takeWhile (· ≠ x)) : y ∈ l.takeWhile (· ≠ t) := by
  induction l with
  | nil => cases hy
  | cons a l ih =>
    by_cases ht : a = t
    · simp [ht] at hx
    · by_cases hax : a = x
      · simp [hax] at hy
      · have hx' : x ∈ l.takeWhile (· ≠ t) := by simpa [ht, Ne.symm hax] using hx
        have hy' : y = a ∨ y ∈ l.takeWhile (· ≠ x) := by simpa [hax] using hy
        rcases hy' with rfl | hy'
        · simp [ht]
        · rw [List.takeWhile_cons_of_pos (by simpa using ht)]
          exact List.mem_cons_of_mem a (ih hx' hy')

/-! ### The head of a line in the home queue, before and after its recall is made -/

theorem State.setProgress_of_entry {s : State} {t : Tag} {r : Request} {q : Progress} (p : Progress)
    (h : s.entry t = .opened r q) : s.setProgress t p = s.setEntry t (.opened r p) := by
  unfold State.setProgress
  rw [h]

/-- The request r, just taken with tag t, stands in home queue entry e as the head of line l (R140). -/
def State.headed (s : State) (t : Tag) (r : Request) (e : Fin 8) (l : LineAddr) : State :=
  ((s.opened t r).takeHome e (.request l t .waitingPosition)).setEntry t (.opened r .homeQueue)

theorem State.headed_eq {r : Request} {a : Word} (ha : requestAddress r = some a) (s : State) (t : Tag)
    (e : Fin 8) (l : LineAddr) :
    ((s.opened t r).takeHome e (.request l t .waitingPosition)).setProgress t .homeQueue = s.headed t r e l :=
  State.setProgress_of_entry .homeQueue (s.entry_opened_pool ha t)

theorem State.entry_headed (s : State) (t x : Tag) (r : Request) (e : Fin 8) (l : LineAddr) :
    (s.headed t r e l).entry x = if x = t then .opened r .homeQueue else s.entry x := by
  unfold State.headed
  rw [State.entry_setEntry]
  split
  · rfl
  · rename_i h
    exact s.entry_opened_other r h

theorem State.canonical_headed (s : State) (t : Tag) (r : Request) (e : Fin 8) (l : LineAddr) (hc : s.canonical) :
    (s.headed t r e l).canonical :=
  State.canonical_setEntry _ t (.opened r .homeQueue)
    (State.canonical_takeHome _ e (.request l t .waitingPosition) (s.canonical_opened t r hc))

/-- The requests taken before t stand as they did before t was taken. -/
theorem State.sameUpTo_headed {s : State} {t x : Tag} (r : Request) (e : Fin 8) (l : LineAddr)
    (hx : x ∈ s.earlier t) : s.sameUpTo (s.headed t r e l) x := by
  have hother : ∀ y ∈ s.earlier t, (s.headed t r e l).entry y = s.entry y := fun y hy => by
    rw [State.entry_headed, if_neg (State.ne_of_mem_earlier hy)]
  refine ⟨takeWhile_ne_append (State.mem_taken_of_mem_earlier hx), hother x hx, fun y hy => ?_⟩
  exact hother y (mem_takeWhile_ne_trans hx hy)

/-- No need of another request, and no return to a joiner, waits for a position (R85). -/
theorem State.idlePosition_some {s : State} {p : RecordTag} (h : s.idlePosition = some p) :
    s.returnWaits = false ∧ (∀ x ∈ s.port.taken, s.wantsPosition x = false) ∧ s.freePosition = some p := by
  unfold State.idlePosition at h
  split at h
  · cases h
  · rename_i hn
    simp only [Bool.or_eq_true, not_or, Bool.not_eq_true, List.any_eq_false] at hn
    exact ⟨hn.1, hn.2, h⟩

/-- The head of its line has the free position when nothing waited for one before it was taken (R84, R85). -/
theorem State.positionFor_headed {s : State} {t : Tag} (r : Request) {e : Fin 8} {l : LineAddr} {p : RecordTag}
    (hf : s.homeQueue.entries[e] = .free) (hl : s.homeHas l = false)
    (hfull : ∀ x, x ∈ s.port.taken → s.progress x ≠ some .homeFull) (hres : s.reservedFor (.head t) = none)
    (hp : s.idlePosition = some p) : (s.headed t r e l).positionFor t = some p := by
  obtain ⟨hreturn, hwants, hfree⟩ := State.idlePosition_some hp
  have hearlier : (s.headed t r e l).earlier t = s.earlier t := s.earlier_opened t r
  have hneed : (s.headed t r e l).needAhead t = false := by
    show (s.returnWaits || _) = false
    rw [hreturn, hearlier, Bool.false_or, List.any_eq_false]
    intro x hx
    have hxt := State.ne_of_mem_earlier hx
    have htaken := State.mem_taken_of_mem_earlier hx
    rw [(State.sameUpTo_headed r e l hx).wantsPosition rfl rfl rfl
      (State.queuedWaits_takeHome l .waitingPosition hf hxt)
      (State.queuedReady_takeHome .waitingPosition hf hl hxt) (hfull x htaken), hwants x htaken]
    simp
  have hres' : (s.headed t r e l).reservedFor (.head t) = none := hres
  unfold State.positionFor
  rw [hres', hneed]
  exact hfree

/-- The request r, just taken with tag t as the head of its line in entry e, waits for the recall of the kind that
stands in position p (R135, R140). -/
def State.recalling (s : State) (t : Tag) (r : Request) (e : Fin 8) (p : RecordTag) (kind : Kind) (res : Resolved) :
    State :=
  ((s.headed t r e res.line).setHome e (.request res.line t .waitingRecall)).makeRecall p kind res.line res.index
    .none

/-- The head of a line without a recall under way makes its own in the position it has (R135, R140). -/
theorem State.awaitRecall_makes {s : State} {r : Request} {a : Word} (ha : requestAddress r = some a) {t : Tag}
    {e : Fin 8} {p : RecordTag} (kind : Kind) {res : Resolved} (hr : s.recallStands res.line = false)
    (hp : (s.headed t r e res.line).positionFor t = some p) :
    ((s.opened t r).takeHome e (.request res.line t .waitingPosition)).awaitRecall t e kind res =
      s.recalling t r e p kind res := by
  have hr' : (s.headed t r e res.line).recallStands res.line = false := hr
  unfold State.awaitRecall
  simp only [State.headed_eq ha, hr', hp, Bool.false_eq_true, if_false]
  rfl

/-- A request that needs a recall and finds nothing of its line in the home queue becomes its head (R140). -/
theorem State.handleHome_heads {s : State} {t : Tag} {r : Request} {res : Resolved} {kind : Kind} {e : Fin 8}
    (ho : s.homeOf t = none) (hq : s.homeHas res.line = false) (hs : s.state = .member)
    (hn : recallNeed (s.loanOf res.index) r = some kind) (he : s.homeFor t = some e) :
    s.handleHome t r res = (s.takeHome e (.request res.line t .waitingPosition)).awaitRecall t e kind res := by
  simp [State.handleHome, ho, hq, hn, he, State.afterLeave, hs]

/-- A request just taken may take the free home queue entry of lowest number when no other waits for one (R140). -/
theorem State.homeFor_opened {s : State} {t : Tag} (r : Request) {e : Fin 8} (he : s.freeHome = some e)
    (hfull : ∀ x, x ∈ s.port.taken → s.progress x ≠ some .homeFull) : (s.opened t r).homeFor t = some e := by
  have hahead : (s.opened t r).homeFullAhead t = false := by
    unfold State.homeFullAhead
    rw [State.earlier_opened, List.any_eq_false]
    intro x hx
    have hentry := s.entry_opened_other r (State.ne_of_mem_earlier hx)
    have hprogress : (s.opened t r).progress x = s.progress x := by
      unfold State.progress
      rw [hentry]
    simpa [hprogress] using hfull x (State.mem_taken_of_mem_earlier hx)
  unfold State.homeFor
  rw [hahead]
  exact he

section recalling
variable (s : State) (t : Tag) (r : Request) (e : Fin 8) (p : RecordTag) (kind : Kind) (res : Resolved)

@[simp] theorem State.rim_recalling : (s.recalling t r e p kind res).rim = s.rim := by
  simp [State.recalling, State.makeRecall, State.headed]

@[simp] theorem State.copy_recalling : (s.recalling t r e p kind res).copy = s.copy := by
  simp only [State.recalling, State.copy_makeRecall]
  rfl

@[simp] theorem State.bank_recalling : (s.recalling t r e p kind res).bank = s.bank := by
  simp only [State.recalling, State.bank_makeRecall]
  rfl

@[simp] theorem State.supply_recalling : (s.recalling t r e p kind res).supply = s.supply := by
  simp only [State.recalling, State.supply_makeRecall]
  rfl

theorem State.positions_recalling : (s.recalling t r e p kind res).positions =
    s.positions.set p (.holding (newRecord kind res.line none [] .none)) := by
  simp only [State.recalling, State.makeRecall, State.positions_updateLoan]
  rfl

theorem State.bus_recalling : (s.recalling t r e p kind res).bus.fresh = s.bus.fresh ++ [.record p] := by
  simp only [State.recalling, State.makeRecall, State.updateLoan]
  (repeat' split) <;> rfl

theorem State.entry_recalling (x : Tag) : (s.recalling t r e p kind res).entry x =
    if x = t then .opened r .homeQueue else s.entry x := by
  rw [← s.entry_headed t x r e res.line]
  exact State.entry_of_port (by simp only [State.recalling, State.port_makeRecall]; rfl) x

theorem State.homeEntry_recalling :
    (s.recalling t r e p kind res).homeQueue.entries[e] = .request res.line t .waitingRecall := by
  simp only [State.recalling, State.homeQueue_makeRecall]
  show ((s.headed t r e res.line).homeQueue.entries.set e (HomeEntry.request res.line t .waitingRecall))[e] = _
  simp

end recalling

/-- The line's loan entry is changed by f, and every other way reads as before (R121, R122). -/
theorem State.loanWay_updateLoan {s : State} {i k : Nat} {v : LoanEntry} (f : LoanEntry → LoanEntry)
    (hc : s.canonical) (hk : s.loanKey i = some k) (hv : (s.loanWay k).entry = some v) (j : Nat) :
    (s.updateLoan i f).loanWay j = if j = k then { s.loanWay k with entry := some (f v) } else s.loanWay j := by
  unfold State.updateLoan
  simp only [hk, hv]
  exact State.loanWay_setLoanWay s k j _ hc

theorem State.loanWay_makeRecall {s : State} {i k : Nat} {v : LoanEntry} (p : RecordTag) (kind : Kind)
    (l : LineAddr) (payload : Payload) (hc : s.canonical) (hk : s.loanKey i = some k)
    (hv : (s.loanWay k).entry = some v) (j : Nat) : (s.makeRecall p kind l i payload).loanWay j =
      if j = k then { s.loanWay k with entry := some { v with busy := true } } else s.loanWay j := by
  have hc' := s.canonical_makeRecord p kind l none [] payload hc
  have hk' : (s.makeRecord p kind l none [] payload).loanKey i = some k := (State.loanKey_of_loans rfl i).trans hk
  have hl (j : Nat) : (s.makeRecord p kind l none [] payload).loanWay j = s.loanWay j := State.loanWay_of_loans rfl j
  unfold State.makeRecall
  rw [State.loanWay_updateLoan _ hc' hk' (by rw [hl]; exact hv), hl, hl]

theorem State.loanWay_recalling {s : State} {k : Nat} {v : LoanEntry} (t : Tag) (r : Request) (e : Fin 8)
    (p : RecordTag) (kind : Kind) (res : Resolved) (hc : s.canonical) (hk : s.loanKey res.index = some k)
    (hv : (s.loanWay k).entry = some v) (j : Nat) : (s.recalling t r e p kind res).loanWay j =
      if j = k then { s.loanWay k with entry := some { v with busy := true } } else s.loanWay j := by
  have hloans : ((s.headed t r e res.line).setHome e (.request res.line t .waitingRecall)).loans = s.loans := rfl
  have hcanonical := State.canonical_setHome _ e (.request res.line t .waitingRecall)
    (s.canonical_headed t r e res.line hc)
  have hk' := (State.loanKey_of_loans hloans res.index).trans hk
  have hl (j : Nat) := State.loanWay_of_loans hloans j
  unfold State.recalling
  rw [State.loanWay_makeRecall p kind res.line .none hcanonical hk' (by rw [hl]; exact hv), hl, hl]

/-- The READY offers come after the offers made before them (R21, R47). -/
theorem State.fresh_readyOffers (s : State) : s.bus.fresh <+: s.readyOffers.bus.fresh := by
  have hfold (l : List ReadyEntry) : ∀ u : State,
      u.bus.fresh <+: (l.foldl (fun s e => s.addOffer (.ready e.joiner)) u).bus.fresh := by
    induction l with
    | nil => exact fun u => List.prefix_refl _
    | cons x l ih => exact fun u => (List.prefix_append ..).trans (ih (u.addOffer (.ready x.joiner)))
  exact hfold (s.members.ready.filter fun e => e.listed.isEmpty && e.owed.isEmpty)
    { s with members := { s.members with
        ready := s.members.ready.filter fun e => !(e.listed.isEmpty && e.owed.isEmpty) } }

theorem State.fresh_walkCheck (s : State) : s.walkCheck.bus.fresh = s.bus.fresh := by
  obtain ⟨_, _, _, _, _, _, _, hbus, _⟩ := s.walkCheck_kept
  rw [hbus]

theorem mem_allFour : ∀ p : Fin 4, p ∈ allFour := by decide

theorem State.mem_offers_settleOffers {s : State} {p : RecordTag} (h : Offer.record p ∈ s.bus.fresh) :
    Offer.record p ∈ s.settleOffers.bus.offers := by
  have hp : p ∈ allFour := mem_allFour p
  refine List.mem_append_left _ (List.mem_append_right _ (List.mem_filter.mpr ⟨List.mem_map_of_mem hp, ?_⟩))
  simpa using h

/-- A record is offered at the end of the step that made it (R21, R84). -/
theorem State.mem_offers_settle {s : State} {p : RecordTag} (h : Offer.record p ∈ s.bus.fresh) :
    Offer.record p ∈ s.settle.bus.offers := by
  refine State.mem_offers_settleOffers ?_
  rw [State.fresh_walkCheck]
  refine (State.fresh_readyOffers _).subset ?_
  show Offer.record p ∈ s.drainSweep.bus.fresh
  rw [State.drainSweep_bus]
  exact h

end Sys2Proof.Machine
end

section
/-! SUPPORT. Requests of home and PRIVATE lines at the port: the statement of the home unit's accesses and recalls
(01 R10, 03 R40, 07 R119, R120, R135, R140 to R143, 08 R150, R151). -/
namespace Sys2Proof.Machine

/-- A line with a copy abroad needs a recall for every request that must have the only copy (R135, R142, R143). -/
theorem LoanEntry.lent_of_abroad {v : LoanEntry} (h : v.holders ≠ 0 ∨ v.heldBy ≠ none) : v.lent = true := by
  unfold LoanEntry.lent
  rcases h with h | h
  · simpa using .inl h
  · simpa using .inr (Option.isSome_iff_ne_none.mpr h)

/-- The recall that a request on a lent home line needs, by its kind (R135, R141 to R143). -/
theorem recallNeed_lent {v : LoanEntry} {r : Request} {kind : Kind}
    (h : (∃ a n, r = .read a n) ∧ v.heldBy ≠ none ∧ kind = .recallRead ∨
      ((∃ a n en ws, r = .write a n en ws) ∨ ∃ op, r = .operation op) ∧
        (v.holders ≠ 0 ∨ v.heldBy ≠ none) ∧ kind = .recallAll ∨
      (∃ a, r = .repairLine a) ∧ v.lost = true ∧ (v.holders ≠ 0 ∨ v.heldBy ≠ none) ∧ kind = .recallAll) :
    homeKind r = true ∧ recallNeed (some v) r = some kind := by
  rcases h with ⟨⟨a, n, rfl⟩, hheld, rfl⟩ | ⟨⟨a, n, en, ws, rfl⟩ | ⟨op, rfl⟩, habroad, rfl⟩ |
    ⟨⟨a, rfl⟩, hlost, habroad, rfl⟩
  · exact ⟨rfl, if_pos (Option.isSome_iff_ne_none.mpr hheld)⟩
  · exact ⟨rfl, if_pos (LoanEntry.lent_of_abroad habroad)⟩
  · exact ⟨rfl, if_pos (LoanEntry.lent_of_abroad habroad)⟩
  · exact ⟨rfl, if_pos (by rw [hlost, LoanEntry.lent_of_abroad habroad]; rfl)⟩

theorem State.loanOf_of_loanKey {s : State} {i k : Nat} (h : s.loanKey i = some k) :
    s.loanOf i = (s.loanWay k).entry := by
  unfold State.loanOf
  rw [h]

/-- A position that holds a record is kept for nobody, and the other positions are as they were (R82). -/
theorem State.reservedFor_recalling {s : State} {w : Waiter} (h : s.reservedFor w = none) (t : Tag) (r : Request)
    (e : Fin 8) (p : RecordTag) (kind : Kind) (res : Resolved) :
    (s.recalling t r e p kind res).reservedFor w = none := by
  unfold State.reservedFor at h ⊢
  rw [List.find?_eq_none] at h ⊢
  intro q hq
  rw [State.positions_recalling]
  by_cases hqp : q = p
  · subst hqp
    simp
  · have hv : ¬ p.val = q.val := fun hpq => hqp (Fin.ext hpq.symm)
    simpa [hv] using h q hq

/-- A request on a home line that needs a recall makes it at its taking, when a home queue entry and a position
are free and nothing waits for either (R135, R140). -/
theorem State.present_recall {s : State} {t : Tag} {r : Request} {res : Resolved} {kind : Kind} {e : Fin 8}
    {p : RecordTag} (h : s.serves t r res) (hk : homeKind r = true) (hh : res.here = true)
    (ho : s.homeOf t = none) (hq : s.homeHas res.line = false) (hr : s.recallStands res.line = false)
    (hn : recallNeed (s.loanOf res.index) r = some kind) (he : s.freeHome = some e)
    (hfull : ∀ x, x ∈ s.port.taken → s.progress x ≠ some .homeFull) (hp : s.idlePosition = some p) :
    s.present r = s.recalling t r e p kind res := by
  obtain ⟨a, ha⟩ := h.address
  have hfree : s.homeQueue.entries[e] = .free := by simpa using List.find?_some he
  rw [State.present_home h hk hh,
    State.handleHome_heads (s := s.opened t r) ho hq h.member hn (State.homeFor_opened r he hfull),
    State.awaitRecall_makes ha kind hr (State.positionFor_headed r hfree hq hfull h.unreserved hp)]
  exact State.releaseReserve_none (State.reservedFor_recalling h.unreserved t r e p kind res)

/-! ### The ends of the steps -/

/-- What the bank has of a READ or pool operation once its access was handed to it (R119, R141, R150, R151). -/
theorem State.bank_of_accessed {s u : State} {t : Tag} {r : Request} {res : Resolved}
    (hb : u.bank = (s.accessed t r res).bank) :
    (s.bank.run = none →
      (∀ a n, r = .read a n →
        u.bank.run = none ∧ u.bank.inFlight = s.bank.inFlight ++ [s.localAccess t a n res]) ∧
      ∀ op, r = .operation op →
        u.bank.inFlight = s.bank.inFlight ∧ u.bank.run = some (s.localRun t op res)) ∧
    (s.bank.run ≠ none →
      (∀ a n, r = .read a n → u.bank =
        { s.bank with held := s.bank.held ++ [.localRead t res.index (wordIndex a) n.toNat] }) ∧
      ∀ op, r = .operation op → u.bank =
        { s.bank with held := s.bank.held ++ [.operate (s.localRun t op res)] }) := by
  rw [hb]
  refine ⟨fun hrun => ⟨?_, ?_⟩, fun hrun => ⟨?_, ?_⟩⟩
  · rintro a n rfl
    rw [(s.bank_accessed_read t a n res).1 hrun]
    exact ⟨hrun, rfl⟩
  · rintro op rfl
    rw [(s.bank_accessed_operation t op res).1 hrun]
    exact ⟨rfl, rfl⟩
  · rintro a n rfl
    exact (s.bank_accessed_read t a n res).2 hrun
  · rintro op rfl
    exact (s.bank_accessed_operation t op res).2 hrun

/-- A step that hands a home line's READ or pool operation to the bank in MEMBER: its request is at the bank, and
all but the bank, its entry and the ranks of the loan table is as it was. -/
theorem State.settle_accessed {s u : State} {t : Tag} {r : Request} {a : Word} {res : Resolved}
    (hu : u = ((s.accessed t r res).refreshLoan res.index).settle) (ha : requestAddress r = some a)
    (hk : readsBank r = true) (hs : s.state = .member) (hw : s.walkApart t) :
    u.entry t = .opened r .bank ∧ u.bank = (s.accessed t r res).bank ∧ s.sameMemory u ∧ s.sameStation u ∧
    s.sameCopies u ∧ u.positions = s.positions ∧ u.supply = s.supply ∧ u.homeQueue = s.homeQueue ∧
    s.sameEntriesBut u t := by
  subst hu
  have hport (x : Tag) : ((s.accessed t r res).refreshLoan res.index).entry x = (s.accessed t r res).entry x :=
    State.entry_of_port (by simp) x
  have hl : ((s.accessed t r res).refreshLoan res.index).state ≠ .leaving := by
    rw [State.state_of_rim (State.rim_refreshLoan _ _), State.rim_accessed]
    exact fun h => by cases hs.symm.trans h
  refine ⟨?_, (State.settle_bank _).trans (by simp), State.sameMemory_settle ?_,
    State.sameStation_settle (by simp), State.sameCopies_settle (by simp) hl,
    (State.settle_positions _).trans (by simp), (State.settle_supply _).trans (by simp),
    (State.settle_homeQueue _).trans (by simp), State.sameEntriesBut_settle (by simp) fun x hx => ?_⟩
  · rw [State.entry_settle_apart (by simp) hw, hport]
    exact s.entry_accessed t r res ha
  · rw [State.bank_refreshLoan, s.mem_accessed t r res hk]
  · rw [hport]
    exact s.entry_accessed_other t r res hx

/-- The positions and loan ways after a step that makes a recall in MEMBER: the recall's record and the busy mark
alone are new (R135). -/
theorem State.settle_recalling_tables {s u : State} {t : Tag} {r : Request} {e : Fin 8} {p : RecordTag}
    {kind : Kind} {res : Resolved} {k : Nat} {v : LoanEntry} (hu : u = (s.recalling t r e p kind res).settle)
    (hc : s.canonical) (hs : s.state = .member) (hkey : s.loanKey res.index = some k)
    (hv : (s.loanWay k).entry = some v) :
    u.recordAt p = some (newRecord kind res.line none [] .none) ∧ Offer.record p ∈ u.bus.offers ∧
    u.loanWay k = { s.loanWay k with entry := some { v with busy := true } } ∧
    (∀ j, j ≠ k → u.loanWay j = s.loanWay j) ∧
    ∀ q : RecordTag, q ≠ p → u.positions[q] = s.positions[q] := by
  subst hu
  have hl : (s.recalling t r e p kind res).state ≠ .leaving := by
    rw [State.state_of_rim (State.rim_recalling ..)]
    exact fun h => by cases hs.symm.trans h
  have hpositions := (State.settle_positions (s.recalling t r e p kind res)).trans (State.positions_recalling ..)
  have hloan (j : Nat) := (State.loanWay_of_loans (State.settle_loans _ hl) j).trans
    (State.loanWay_recalling t r e p kind res hc hkey hv j)
  refine ⟨?_, State.mem_offers_settle ?_, ?_, fun j hj => ?_, fun q hq => ?_⟩
  · unfold State.recordAt
    rw [hpositions]
    simp
  · rw [State.bus_recalling]
    simp
  · rw [hloan, if_pos rfl]
  · rw [hloan, if_neg hj]
  · rw [hpositions]
    have hne : p.val ≠ q.val := fun hpq => hq (Fin.ext hpq.symm)
    simp [hne]

/-- A step that makes a recall in MEMBER: its request is the head of its line in entry e, and what a recall does not
concern is as it was (R135, R140). -/
theorem State.settle_recalling {s u : State} {t : Tag} {r : Request} {e : Fin 8} {p : RecordTag} {kind : Kind}
    {res : Resolved} (hu : u = (s.recalling t r e p kind res).settle) (hs : s.state = .member)
    (hw : s.walkApart t) :
    u.entry t = .opened r .homeQueue ∧ u.homeQueue.entries[e] = .request res.line t .waitingRecall ∧
    s.sameMemory u ∧ s.sameStation u ∧ s.sameCopies u ∧ u.supply = s.supply ∧ u.bank = s.bank ∧
    s.sameEntriesBut u t := by
  subst hu
  have hl : (s.recalling t r e p kind res).state ≠ .leaving := by
    rw [State.state_of_rim (State.rim_recalling ..)]
    exact fun h => by cases hs.symm.trans h
  refine ⟨?_, ?_, State.sameMemory_settle (by simp), State.sameStation_settle (by simp),
    State.sameCopies_settle (by simp) hl, (State.settle_supply _).trans (by simp),
    (State.settle_bank _).trans (by simp), State.sameEntriesBut_settle (by simp) fun x hx => ?_⟩
  · rw [State.entry_settle_apart (by simp) hw, State.entry_recalling, if_pos rfl]
  · rw [State.settle_homeQueue]
    exact s.homeEntry_recalling t r e p kind res
  · rw [State.entry_recalling, if_neg hx]

/-- What the step of a request on a PRIVATE line leaves as it was (R120). -/
theorem State.settle_private {s u : State} {t : Tag} {r : Request} {res : Resolved}
    (hu : u = ((s.opened t r).handlePrivate t r res).settle) :
    u.positions = s.positions ∧ s.sameStation u ∧ (s.state ≠ .leaving → s.sameCopies u ∧ u.loans = s.loans) ∧
    u.supply = s.supply ∧ u.homeQueue = s.homeQueue ∧ s.sameEntriesBut u t := by
  subst hu
  refine ⟨(State.settle_positions _).trans (by simp), State.sameStation_settle (by simp), fun hl => ?_,
    (State.settle_supply _).trans (by simp), (State.settle_homeQueue _).trans (by simp),
    State.sameEntriesBut_settle (by simp) fun x hx => s.entry_handlePrivate_other r res hx⟩
  have hl' : ((s.opened t r).handlePrivate t r res).state ≠ .leaving := by
    rw [State.state_of_rim (State.rim_handlePrivate ..)]
    exact hl
  exact ⟨State.sameCopies_settle (by simp) hl', (State.settle_loans _ hl').trans (by simp)⟩

/-- The step of a READ or pool operation on a PRIVATE line hands it to the bank (R120). -/
theorem State.settle_private_reads {s u : State} {t : Tag} {r : Request} {a : Word} {res : Resolved}
    (hu : u = ((s.opened t r).handlePrivate t r res).settle) (ha : requestAddress r = some a)
    (hk : readsBank r = true) (hw : s.walkApart t) :
    u.entry t = .opened r .bank ∧ s.sameMemory u ∧ u.bank = (s.accessed t r res).bank := by
  rw [s.handlePrivate_reads t res hk] at hu
  subst hu
  refine ⟨?_, State.sameMemory_settle (s.mem_accessed t r res hk), State.settle_bank _⟩
  rw [State.entry_settle_apart (by simp) hw]
  exact s.entry_accessed t r res ha

/-- The step of a maintenance request on a PRIVATE line completes it, and the bank has no part (R10, R120). -/
theorem State.settle_private_maintains {s u : State} {t : Tag} {r : Request} {a : Word} {res : Resolved}
    (hu : u = ((s.opened t r).handlePrivate t r res).settle)
    (hr : r = .flushLine a ∨ r = .discardLine a ∨ r = .repairLine a) :
    u.entry t = .done .ok [] ∧ s.sameMemory u ∧ u.bank = s.bank := by
  have ha : requestAddress r = some a := by rcases hr with rfl | rfl | rfl <;> rfl
  have hpriv : (s.opened t r).handlePrivate t r res = (s.opened t r).complete t .ok [] := by
    rcases hr with rfl | rfl | rfl <;> rfl
  subst hu
  rw [hpriv]
  exact ⟨State.settle_done _ t .ok [] (State.entry_complete_self .ok [] (s.entry_opened_pool ha t)),
    State.sameMemory_settle (by simp), (State.settle_bank _).trans (by simp)⟩

/-- Settles O30: at its taking a READ or pool operation that needs no recall makes State.accessed, one that needs a
recall State.recalling, and one of a PRIVATE line State.handlePrivate; the end of the step keeps each. -/
theorem homeReadsAndOperationsAreIssued : Obligations.HomeReadsAndOperationsAreIssued := by
  refine ⟨?_, ?_, ?_⟩
  · intro s t c r res hc hkind hserves hhere hwalk ho hq hr hneed
    have hk : readsBank r = true := by rcases hkind with ⟨a, n, rfl⟩ | ⟨op, rfl⟩ <;> rfl
    obtain ⟨a, ha⟩ := hserves.address
    obtain ⟨hentry, hbank, hframe⟩ := State.settle_accessed (res := res) rfl ha hk hserves.member hwalk
    obtain ⟨hissued, hheld⟩ := State.bank_of_accessed hbank
    have hnext := exec_present s hc
    rw [State.present_access hserves hk hhere ho hq hr hneed] at hnext
    exact ⟨_, hnext, hentry, hissued, hheld, hframe⟩
  · intro s t c r res kind k v e p hcan hc hserves hhere hwalk ho hq hr hkey hv hkind he hfull hp
    obtain ⟨hk, hneed⟩ := recallNeed_lent hkind
    rw [← hv, ← State.loanOf_of_loanKey hkey] at hneed
    obtain ⟨hrecord, hoffer, hbusy, hways, hpositions⟩ :=
      State.settle_recalling_tables (t := t) (r := r) (e := e) (p := p) (kind := kind) rfl hcan hserves.member hkey
        hv
    obtain ⟨hentry, hhome, hframe⟩ :=
      State.settle_recalling (r := r) (e := e) (p := p) (kind := kind) (res := res) rfl hserves.member
        hwalk
    obtain ⟨hmemory, hstation, hcopies, hsupply, hbank, hentries⟩ := hframe
    have hnext := exec_present s hc
    rw [State.present_recall hserves hk hhere ho hq hr hneed he hfull hp] at hnext
    exact ⟨_, hnext, hentry, hhome, hrecord, hoffer, hbusy, hways, hpositions, hmemory, hstation, hcopies,
      hsupply, hbank, hentries⟩
  · intro s t c r a res hc ha hserves
    obtain ⟨hpositions, hstation, hcopies, hsupply, hhome, hentries⟩ :=
      State.settle_private (s := s) (t := t) (r := r) (res := res) rfl
    have hnext := exec_present s hc
    rw [State.present_private ha hserves] at hnext
    refine ⟨_, hnext, hpositions, hstation, hcopies, hsupply, hhome, hentries, fun n hr => ?_, fun op hr => ?_,
      fun hr => State.settle_private_maintains rfl hr⟩
    · obtain ⟨hentry, hmemory, hbank⟩ :=
        State.settle_private_reads (res := res) rfl ha (by rw [hr]; rfl) hserves.walkApart
      obtain ⟨hissued, hheld⟩ := State.bank_of_accessed hbank
      exact ⟨hentry, hmemory, fun hrun => (hissued hrun).1 a n hr, fun hrun => (hheld hrun).1 a n hr⟩
    · obtain ⟨hentry, hmemory, hbank⟩ :=
        State.settle_private_reads (res := res) rfl ha (by rw [hr]; rfl) hserves.walkApart
      obtain ⟨hissued, hheld⟩ := State.bank_of_accessed hbank
      exact ⟨hentry, hmemory, fun hrun => (hissued hrun).2 op hr, fun hrun => (hheld hrun).2 op hr⟩

end Sys2Proof.Machine
end
